-- ==== Sys2Proof/Word.lean ====
section
/-! DEFINITION. The widths of the block: 32-bit words (`00_scope.md` R6, `30_encoding.md` R335) and the
bytes memory is addressed by (`20_memory.md` R200). -/

namespace Sys2Proof

/-- A 32-bit word: a register, an address, a FIFO entry, a timing word, a command word. -/
abbrev Word := BitVec 32

/-- A byte of memory. -/
abbrev Byte := BitVec 8

end Sys2Proof
end

