-- ==== Sys2Proof/Config.lean ====
section
/-! DEFINITION. What `construct` fixes for a run (`00_scope.md` section 4, `70_reset_and_hazards.md` R1000),
the two configurations the spec works its examples in (`95_test_vectors.md` section 2), and the free values:
constants without a body, one for each value the spec leaves open. -/

namespace Sys2Proof

/-- `MODE` (`00_scope.md` section 4): 16-bit pixels, or 8-bit indices with a palette. -/
inductive Mode where
  | direct
  | indexed
deriving DecidableEq, Repr, Inhabited

/-- The DMA channels A = 0, B = 1, C = 2, D = 3 (`44_dma_chain.md` R600). -/
inductive ChanId where
  | a
  | b
  | c
  | d
deriving DecidableEq, Repr, Inhabited

/-- Who takes a step (`00_scope.md` R9). TGEN and PUMP share the `tick` (`41_timing_generator.md` R450);
TGEN's start is a step of its own (R457). -/
inductive Agent where
  | tseq
  | tgenStart
  | tick
  | plu
  | dma (n : ChanId)
  | disp
  | producer (n : Nat)
deriving DecidableEq, Repr, Inhabited

/-- The parameters of `00_scope.md` section 4. They are fixed by `construct` and no command changes them
(`70_reset_and_hazards.md` R1000). `encode_pixel_word_direct` is a function and stands below as a constant;
`RES_OK` is a draw and stands in the state. -/
structure Config where
  /-- `WIDTH`: pixels per active line. -/
  width : Nat
  /-- `HEIGHT`: active lines per frame. -/
  height : Nat
  /-- `ROW_SHIFT`: `true` shows each buffer row on two panel lines. -/
  rowShift : Bool
  /-- `MODE`. -/
  mode : Mode
  /-- `ROTATION` in degrees, as `construct` was given it (`60_exceptions.md` R905). -/
  rotation : Nat
  /-- `VP_LINES`, `VBP_LINES`, `VFP_LINES`. -/
  vpLines : Nat
  vbpLines : Nat
  vfpLines : Nat
  /-- `H_FRONT`, `H_PULSE`, `H_BACK`, `H_DISPLAY` in pixel-clock cycles. -/
  hFront : Nat
  hPulse : Nat
  hBack : Nat
  hDisplay : Nat
  /-- `TQ_DEPTH`, `PF_DEPTH`, `PLI_DEPTH`, `PLO_DEPTH`. -/
  tqDepth : Nat
  pfDepth : Nat
  pliDepth : Nat
  ploDepth : Nat
  /-- `PWM_TOP`: the duty for brightness 255. -/
  pwmTop : Word
  /-- `CLKDIV`, `CLKDIV_MIN`. -/
  clkdiv : Nat
  clkdivMin : Nat
  /-- `RAM_BASE`, `RAM_SIZE`. -/
  ramBase : Word
  ramSize : Nat
  /-- `REG_BASE`, `DMA_BASE`. -/
  regBase : Word
  dmaBase : Word
  /-- `FB0`: the first live buffer. -/
  fb0 : Word
  /-- `PALETTE_BASE` (used only when `MODE = INDEXED`). -/
  paletteBase : Word
  /-- `NPROD`. -/
  nprod : Nat
deriving DecidableEq, Repr, Inhabited

/-- Configuration `EX1` of `95_test_vectors.md` section 2 (direct colour). `CLKDIV = CLKDIV_MIN = 1` and the
`PLI`/`PLO` depths of 1 are not in that table and nothing in direct mode reads them (log entry 3). -/
def Config.ex1 : Config where
  width := 8
  height := 4
  rowShift := false
  mode := .direct
  rotation := 0
  vpLines := 1
  vbpLines := 2
  vfpLines := 2
  hFront := 4
  hPulse := 5
  hBack := 6
  hDisplay := 8
  tqDepth := 4
  pfDepth := 2
  pliDepth := 1
  ploDepth := 1
  pwmTop := 1000
  clkdiv := 1
  clkdivMin := 1
  ramBase := 0x20000000
  ramSize := 0x10000
  regBase := 0x40000000
  dmaBase := 0x50000000
  fb0 := 0x20001000
  paletteBase := 0
  nprod := 1

/-- Configuration `EX2` of `95_test_vectors.md` section 2 (indexed colour). `State.reset` is built from it
(log entry 3). -/
def Config.ex2 : Config :=
  { Config.ex1 with
    mode := .indexed
    width := 16
    hDisplay := 16
    pliDepth := 1
    ploDepth := 2
    paletteBase := 0x20000400 }

/-- `encode_pixel_word_direct`: an OPEN pure function from a 16-bit pixel to the 18-bit output
(`00_scope.md` section 4, `30_encoding.md` R331). FREE: nothing constrains it (log entry 5). -/
opaque Config.encodePixelWordDirect : BitVec 16 → BitVec 18

/-- The pixel output in a tick that emits no pixel: any value (`42_pixel_pump.md` R510). FREE, a fresh
value for each tick (log entry 6). -/
opaque Config.freePix : Nat → BitVec 18

/-- `RES_OK`: whether the resources `INIT` claims are available, a draw at each `INIT` (`00_scope.md`
section 4). FREE, a fresh value for each draw that the state's list does not supply (log entry 7). -/
opaque Config.freeResOk : Nat → Bool

/-- The order in which enabled agents take their steps: any order (`00_scope.md` R9,
`93_implementation_defined.md` section 2). FREE, a fresh choice for each turn that the state's list does not
supply (log entry 2). -/
opaque Config.freeAgent : Nat → Agent

end Sys2Proof
end

