-- ==== Sys2Proof/Syntax.lean ====
section
/-! DEFINITION. The two opcode maps of `30_encoding.md` as one inductive, one constructor for each row of
`opcode_table.json`: four timing words (R300, R304) and eight host commands (R320). -/

namespace Sys2Proof

/-- The trigger a timing word raises at its last cycle (`30_encoding.md` R301). -/
inductive Trig where
  | none
  | lineReady
  | nextLine
  | frameReady
deriving DecidableEq, Repr, Inhabited

/-- The instructions: the timing words TGEN executes, with their `COUNT`, `HS` and `VS` fields
(`30_encoding.md` R300), and the host commands with the arguments each one uses (R320). Every value of
every operand type is a value its encoding admits. -/
inductive Instr where
  /-- `TW.NONE` -/
  | twNone (count : BitVec 16) (hs vs : Bool)
  /-- `TW.LINE_READY` -/
  | twLineReady (count : BitVec 16) (hs vs : Bool)
  /-- `TW.NEXT_LINE` -/
  | twNextLine (count : BitVec 16) (hs vs : Bool)
  /-- `TW.FRAME_READY` -/
  | twFrameReady (count : BitVec 16) (hs vs : Bool)
  /-- `INIT` -/
  | init
  /-- `TEARDOWN` -/
  | teardown
  /-- `SET_FRAMEBUFFER`: `ARG0` buffer base. -/
  | setFramebuffer (base : Word)
  /-- `WAIT_VSYNC` -/
  | waitVsync
  /-- `SET_PALETTE`: `ARG0` index, `ARG1` colour `0x00RRGGBB`. -/
  | setPalette (index colour : Word)
  /-- `SET_BACKLIGHT`: `ARG0` brightness. -/
  | setBacklight (brightness : Word)
  /-- `UPDATE`: `ARG0` source base, `ARG1` layer count, `ARG2` source palette base. -/
  | update (src layers pal : Word)
  /-- `PARTIAL_UPDATE`: `ARG0` source base, `ARG1` layer count, `ARG2` `(y, x)`, `ARG3` `(h, w)`. -/
  | partialUpdate (src layers : Word) (x y w h : BitVec 16)
deriving DecidableEq, Repr, Inhabited

/-- A host command request: the command word and its four arguments (`30_encoding.md` R320). -/
structure Command where
  word : Word
  arg0 : Word
  arg1 : Word
  arg2 : Word
  arg3 : Word
deriving DecidableEq, Repr, Inhabited

/-- What an instruction is read from. The two opcode maps use the same 32-bit words (`0x00000001` is `INIT`
to a producer and `TW.NONE` to TGEN), so a word means something only together with the place it came
from: the timing queue, or a producer's request. -/
inductive Packet where
  | timing (w : Word)
  | command (c : Command)
deriving DecidableEq, Repr, Inhabited

end Sys2Proof
end

