-- ==== Sys2Proof/Machine/Params.lean ====
section
/-! DEFINITION. The derived quantities of the configuration (`00_scope.md` R1, R3) and the address checks
that `construct` and the host commands share. -/

namespace Sys2Proof.Config

/-- `TW_OVERHEAD`: the cycles a timing word costs beyond its wait count (`30_encoding.md` R302). -/
def twOverhead : Nat := 3

/-- `BPP` (`00_scope.md` R1). -/
def bpp (c : Config) : Nat :=
  match c.mode with
  | .direct => 2
  | .indexed => 1

/-- `BUF_ROWS` (R1). -/
def bufRows (c : Config) : Nat := c.height >>> c.rowShift.toNat

/-- `STRIDE` in bytes (R1). -/
def stride (c : Config) : Nat := c.width * c.bpp

/-- `BUF_BYTES` (R1). -/
def bufBytes (c : Config) : Nat := c.stride * c.bufRows

/-- `LINE_WORDS` (R1). -/
def lineWords (c : Config) : Nat :=
  match c.mode with
  | .direct => c.width / 2
  | .indexed => c.width / 4

/-- `V_PULSE`, `V_BACK`, `V_DISPLAY`, `V_FRONT`: cumulative line boundaries (R3). -/
def vPulse (c : Config) : Nat := c.vpLines
def vBack (c : Config) : Nat := c.vPulse + c.vbpLines
def vDisplay (c : Config) : Nat := c.vBack + c.height
def vFront (c : Config) : Nat := c.vDisplay + c.vfpLines

/-- The first address past RAM (`20_memory.md` R201), as a natural number. -/
def ramEnd (c : Config) : Nat := c.ramBase.toNat + c.ramSize

/-- `n` bytes from `a` lie wholly in RAM (`20_memory.md` R201). Sums are taken in the naturals, without
wrapping (`46_host_commands.md` R870). -/
def inRam (c : Config) (a : Word) (n : Nat) : Bool :=
  decide (c.ramBase.toNat ≤ a.toNat) && decide (a.toNat + n ≤ c.ramEnd)

/-- A frame buffer may stand at `b`: word-aligned and wholly in RAM (`46_host_commands.md` R820). -/
def bufferOk (c : Config) (b : Word) : Bool :=
  decide (b.toNat % 4 = 0) && c.inRam b c.bufBytes

/-- `CTRL.ROT180`: set only for a rotation of 180 degrees (`10_state.md` R120, `60_exceptions.md` R905). -/
def rot180 (c : Config) : Bool := decide (c.rotation = 180)

/-- Whether the channel exists: C and D only when `MODE = INDEXED` (`44_dma_chain.md` R600). -/
def hasChan (c : Config) : ChanId → Bool
  | .a => true
  | .b => true
  | .c => decide (c.mode = .indexed)
  | .d => decide (c.mode = .indexed)

end Sys2Proof.Config
end

