-- ==== Sys2Proof/WellFormed.lean ====
section
/-! DEFINITION. What makes a term legal: the configuration checks of `construct`
(`70_reset_and_hazards.md` R1001), and the words that the two opcode maps admit (`30_encoding.md` R303,
R304, R321). -/

namespace Sys2Proof

namespace Config

/-- `WIDTH` (`00_scope.md` R2). -/
def okWidth (c : Config) : Bool :=
  decide (4 ≤ c.width) && (match c.mode with
    | .direct => decide (c.width % 2 = 0)
    | .indexed => decide (c.width % 4 = 0))

/-- `HEIGHT` (R2). -/
def okHeight (c : Config) : Bool :=
  decide (1 ≤ c.height) && (!c.rowShift || decide (c.height % 2 = 0))

/-- `VP_LINES >= 1` and `VFP_LINES >= 1` (R3); `V_BACK >= 1` follows. -/
def okVertical (c : Config) : Bool :=
  decide (1 ≤ c.vpLines) && decide (1 ≤ c.vBack) && decide (1 ≤ c.vfpLines)

/-- One phase length: at least `TW_OVERHEAD`, at most `0xFFFF + 3` (R4). -/
def okPhaseLength (h : Nat) : Bool := decide (twOverhead ≤ h) && decide (h ≤ 0xFFFF + 3)

/-- The four phase lengths, and `H_DISPLAY >= WIDTH` (R4). -/
def okHorizontal (c : Config) : Bool :=
  okPhaseLength c.hFront && okPhaseLength c.hPulse && okPhaseLength c.hBack &&
  okPhaseLength c.hDisplay && decide (c.width ≤ c.hDisplay)

/-- `PWM_TOP >= 940` (R4). -/
def okBacklight (c : Config) : Bool := decide (940 ≤ c.pwmTop.toNat)

/-- Each FIFO that exists has at least one entry (`00_scope.md` section 4). That `construct` refuses a depth of 0
is DEDUCED (log entry 4), as for `okClock` and `okProducers`. -/
def okQueues (c : Config) : Bool :=
  decide (1 ≤ c.tqDepth) && decide (1 ≤ c.pfDepth) && (match c.mode with
    | .direct => true
    | .indexed => decide (1 ≤ c.pliDepth) && decide (1 ≤ c.ploDepth))

/-- `CLKDIV >= CLKDIV_MIN` (`00_scope.md` section 4, `70_reset_and_hazards.md` R1040). -/
def okClock (c : Config) : Bool := decide (c.clkdivMin ≤ c.clkdiv)

/-- `NPROD >= 1` (`00_scope.md` section 4). -/
def okProducers (c : Config) : Bool := decide (1 ≤ c.nprod)

/-- The 256-byte windows are 256-byte aligned. The constraint is `20_memory.md` R202's; that `construct` refuses a
configuration that breaks it is DEDUCED (log entry 4). -/
def okWindows (c : Config) : Bool :=
  decide (c.regBase.toNat % 256 = 0) && decide (c.dmaBase.toNat % 256 = 0)

/-- Two regions, given by first address and length, share no address. -/
def apart (a n b m : Nat) : Bool := decide (a + n ≤ b) || decide (b + m ≤ a)

/-- RAM lies in the 32-bit space, and RAM and the two windows are pairwise disjoint. The constraints are those of
`20_memory.md` R200 and R202; that `construct` refuses a configuration that breaks them is DEDUCED (log entry
4). -/
def okMap (c : Config) : Bool :=
  decide (c.ramEnd ≤ 2 ^ 32) &&
  apart c.ramBase.toNat c.ramSize c.regBase.toNat 256 &&
  apart c.ramBase.toNat c.ramSize c.dmaBase.toNat 256 &&
  apart c.regBase.toNat 256 c.dmaBase.toNat 256

/-- `FB0` word-aligned with the whole buffer in RAM (`70_reset_and_hazards.md` R1001). -/
def okFb0 (c : Config) : Bool := c.bufferOk c.fb0

/-- `PALETTE_BASE` 1024-byte aligned with the table in RAM, when there is one (R1001). -/
def okPalette (c : Config) : Bool :=
  match c.mode with
  | .direct => true
  | .indexed => decide (c.paletteBase.toNat % 1024 = 0) && c.inRam c.paletteBase 0x400

/-- DEDUCED (log entry 4): the line numbers and the pixel count fit the 16-bit registers that hold them
(`10_state.md` R102, R104, R138). -/
def okCounters (c : Config) : Bool :=
  decide (c.vFront ≤ 2 ^ 16) && decide (c.height < 2 ^ 16) && decide (c.width < 2 ^ 16)

/-- Every check of `construct`: those of `70_reset_and_hazards.md` R1001, and, DEDUCED (log entry 4), `okQueues`,
`okClock`, `okProducers`, `okWindows`, `okMap` and `okCounters`. The capacity bound of `00_scope.md` R5 is
not among them: a configuration that breaks it is admitted. -/
def wf (c : Config) : Bool :=
  c.okWidth && c.okHeight && c.okVertical && c.okHorizontal && c.okBacklight && c.okQueues &&
  c.okClock && c.okProducers && c.okWindows && c.okMap && c.okFb0 && c.okPalette && c.okCounters

/-- The capacity bound (`00_scope.md` R5): less than one line of pixels downstream of channel A. It is no
part of `wf`. -/
def capacityOk (c : Config) : Bool :=
  match c.mode with
  | .direct => decide (c.pfDepth < c.lineWords)
  | .indexed => decide (c.pfDepth + c.ploDepth + 5 + 4 * c.pliDepth < c.width)

end Config

/-- A timing word TGEN has a meaning for: bits 31:20 are zero (`30_encoding.md` R303). -/
def timingWordOk (w : Word) : Bool := decide (w.extractLsb' 20 12 = 0#12)

/-- A command word that is not reserved: bits 31:8 zero and `OP` in `0x01 .. 0x08` (`30_encoding.md`
R321). -/
def commandWordOk (w : Word) : Bool := decide (1 ≤ w.toNat) && decide (w.toNat ≤ 8)

/-- A packet that the opcode maps admit. -/
def Packet.wf : Packet → Bool
  | .timing w => timingWordOk w
  | .command c => commandWordOk c.word

end Sys2Proof
end

