-- ==== Sys2Proof/Decode.lean ====
section
/-! DEFINITION. The decoder, total on every packet and rejecting by name, and the encoder, both written from
`30_encoding.md` R300, R301, R304, R320 and R321. -/

namespace Sys2Proof

/-- `TRIG`, bits 19:18 of a timing word (`30_encoding.md` R301). -/
def Trig.bits : Trig → BitVec 2
  | .none => 0b00
  | .lineReady => 0b01
  | .nextLine => 0b10
  | .frameReady => 0b11

/-- The trigger a `TRIG` field names (R301). -/
def Trig.ofBits (b : BitVec 2) : Trig :=
  if b = 0b00 then .none
  else if b = 0b01 then .lineReady
  else if b = 0b10 then .nextLine
  else .frameReady

/-- The timing word with the given fields: 12 zero bits, `TRIG`, `VS`, `HS`, `COUNT` from the most
significant end down (R300, R305). -/
def timingWord (t : Trig) (vs hs : Bool) (count : BitVec 16) : Word :=
  0#12 ++ t.bits ++ BitVec.ofBool vs ++ BitVec.ofBool hs ++ count

/-- `COUNT`, bits 15:0 (R300). -/
def wordCount (w : Word) : BitVec 16 := w.extractLsb' 0 16

/-- `HS`, bit 16 (R300). -/
def wordHs (w : Word) : Bool := w.getLsbD 16

/-- `VS`, bit 17 (R300). -/
def wordVs (w : Word) : Bool := w.getLsbD 17

/-- `TRIG`, bits 19:18 (R300, R301). -/
def wordTrig (w : Word) : Trig := Trig.ofBits (w.extractLsb' 18 2)

/-- Why a packet is no instruction. -/
inductive DecodeError where
  /-- A timing word with a bit of 31:20 set (`30_encoding.md` R303, R304). -/
  | reservedTimingWord
  /-- A command word with `OP` 0x00 or 0x09..0xFF, or with a bit of 31:8 set (R321). -/
  | reservedCommandWord
deriving DecidableEq, Repr, Inhabited

/-- The timing word with trigger `t`, as an instruction. -/
def Instr.ofTiming (t : Trig) (count : BitVec 16) (hs vs : Bool) : Instr :=
  match t with
  | .none => .twNone count hs vs
  | .lineReady => .twLineReady count hs vs
  | .nextLine => .twNextLine count hs vs
  | .frameReady => .twFrameReady count hs vs

/-- The timing-word opcode map (`30_encoding.md` R304): decoded by `TRIG`, with bits 31:20 zero. -/
def decodeTiming (w : Word) : Except DecodeError Instr :=
  if timingWordOk w then
    .ok (Instr.ofTiming (wordTrig w) (wordCount w) (wordHs w) (wordVs w))
  else
    .error .reservedTimingWord

/-- The host command map (`30_encoding.md` R320, R321). The whole command word is compared, so bits 31:8
must be zero; arguments a command does not use are ignored. `ARG2 = (y, x)` and `ARG3 = (h, w)` have `x` and
`w` in bits 15:0 (`46_host_commands.md` R880). -/
def decodeCommand (c : Command) : Except DecodeError Instr :=
  if c.word = 0x00000001 then .ok .init
  else if c.word = 0x00000002 then .ok .teardown
  else if c.word = 0x00000003 then .ok (.setFramebuffer c.arg0)
  else if c.word = 0x00000004 then .ok .waitVsync
  else if c.word = 0x00000005 then .ok (.setPalette c.arg0 c.arg1)
  else if c.word = 0x00000006 then .ok (.setBacklight c.arg0)
  else if c.word = 0x00000007 then .ok (.update c.arg0 c.arg1 c.arg2)
  else if c.word = 0x00000008 then
    .ok (.partialUpdate c.arg0 c.arg1 (c.arg2.extractLsb' 0 16) (c.arg2.extractLsb' 16 16)
      (c.arg3.extractLsb' 0 16) (c.arg3.extractLsb' 16 16))
  else .error .reservedCommandWord

/-- The decoder: which map a packet is read by depends on where it came from. -/
def decode : Packet → Except DecodeError Instr
  | .timing w => decodeTiming w
  | .command c => decodeCommand c

/-- The packet of an instruction, unused arguments zero (`30_encoding.md` R300, R320). -/
def encode : Instr → Packet
  | .twNone count hs vs => .timing (timingWord .none vs hs count)
  | .twLineReady count hs vs => .timing (timingWord .lineReady vs hs count)
  | .twNextLine count hs vs => .timing (timingWord .nextLine vs hs count)
  | .twFrameReady count hs vs => .timing (timingWord .frameReady vs hs count)
  | .init => .command ⟨0x00000001, 0, 0, 0, 0⟩
  | .teardown => .command ⟨0x00000002, 0, 0, 0, 0⟩
  | .setFramebuffer base => .command ⟨0x00000003, base, 0, 0, 0⟩
  | .waitVsync => .command ⟨0x00000004, 0, 0, 0, 0⟩
  | .setPalette index colour => .command ⟨0x00000005, index, colour, 0, 0⟩
  | .setBacklight b => .command ⟨0x00000006, b, 0, 0, 0⟩
  | .update src layers pal => .command ⟨0x00000007, src, layers, pal, 0⟩
  | .partialUpdate src layers x y w h => .command ⟨0x00000008, src, layers, y ++ x, h ++ w⟩

/-- The words of an instruction, the first one first. -/
def Packet.words : Packet → List Word
  | .timing w => [w]
  | .command c => [c.word, c.arg0, c.arg1, c.arg2, c.arg3]

/-- Word `k` of an instruction whose bits are `w`, the first word the least significant. -/
def tableWord (w k : Nat) : Word := BitVec.ofNat 32 (w / 2 ^ (32 * k))

/-- The packet an opcode-table row's bits stand for. The two maps share their words, and the table gives no
mark of the map: the eight words `0x00000001 .. 0x00000008` are taken as host commands and every other word
as a timing word (log entry 8). -/
def tablePacket (nbits w : Nat) : Packet :=
  let v := w % 2 ^ nbits
  if commandWordOk (tableWord v 0) then
    .command ⟨tableWord v 0, tableWord v 1, tableWord v 2, tableWord v 3, tableWord v 4⟩
  else
    .timing (tableWord v 0)

/-- The instruction the decoder reads from a row's bits. -/
def decodeTableWord (nbits w : Nat) : Option Instr :=
  match decode (tablePacket nbits w) with
  | .ok i => some i
  | .error _ => none

end Sys2Proof
end

