-- ==== Sys2Proof/Machine/State.lean ====
section
/-! DEFINITION. The state of the block, its producers and the run (`10_state.md`), the reasons a step can
stop, and the state after `construct` (R180). Everything is plain data. -/

namespace Sys2Proof.Machine

/-- The pump's control state `PUMP_ST` (`10_state.md` R104). -/
inductive PumpState where
  | waitStart
  | shift
deriving DecidableEq, Repr, Inhabited

/-- A DMA channel's `CTRL` register by fields (`10_state.md` R151); bits 31:11 are 0. `dreq` and `chainTo`
keep all three bits, so their reserved values 4 to 7 can be written down. -/
structure Ctrl where
  en : Bool
  busy : Bool
  incrRead : Bool
  incrWrite : Bool
  bswap : Bool
  dreq : BitVec 3
  chainTo : BitVec 3
deriving DecidableEq, Repr, Inhabited

/-- A DMA channel's registers (`10_state.md` R150). -/
structure Channel where
  readAddr : Word
  writeAddr : Word
  transCount : Word
  ctrl : Ctrl
  remain : Word
deriving DecidableEq, Repr, Inhabited

/-- A channel after reset: every field 0 (`10_state.md` R106). -/
def Channel.zero : Channel where
  readAddr := 0
  writeAddr := 0
  transCount := 0
  ctrl := ⟨false, false, false, false, false, 0, 0⟩
  remain := 0

/-- The four channels (`44_dma_chain.md` R600). In direct mode C and D do not exist and stay at zero. -/
structure Channels where
  a : Channel
  b : Channel
  c : Channel
  d : Channel
deriving DecidableEq, Repr, Inhabited

/-- TSEQ (`10_state.md` R102). -/
structure Tseq where
  /-- `TSEQ_EN` -/
  en : Bool
  /-- `timing_phase` -/
  phase : BitVec 2
  /-- `timing_row` -/
  row : BitVec 16
deriving DecidableEq, Repr, Inhabited

/-- TGEN and the timing queue (`10_state.md` R103). -/
structure Tgen where
  /-- `TG_EN` -/
  en : Bool
  /-- `TG_WORD` -/
  word : Word
  /-- `TG_REMAIN` -/
  remain : BitVec 17
  /-- `HS` -/
  hs : Bool
  /-- `VS` -/
  vs : Bool
  /-- `TQ`, oldest first -/
  tq : List Word
deriving DecidableEq, Repr, Inhabited

/-- PUMP, the pump FIFO and the pixel output (`10_state.md` R104, `42_pixel_pump.md` R510). -/
structure Pump where
  /-- `PUMP_EN` -/
  en : Bool
  /-- `PUMP_ST` -/
  st : PumpState
  /-- `PUMP_LEFT` -/
  left : BitVec 16
  /-- `PUMP_HV` -/
  hv : Bool
  /-- `PUMP_HI` -/
  hi : BitVec 16
  /-- `PF`, oldest first -/
  pf : List Word
  /-- `PIXV` -/
  pixv : Bool
  /-- `PIX` -/
  pix : BitVec 18
deriving DecidableEq, Repr, Inhabited

/-- PLU and its FIFOs (`10_state.md` R105). In direct mode it does not exist and stays at its reset value. -/
structure Plu where
  /-- `PLU_EN` -/
  en : Bool
  /-- `PLU_SR` -/
  sr : Word
  /-- `PLU_N` -/
  n : BitVec 3
  /-- `PLI`, oldest first -/
  pli : List Word
  /-- `PLO`, oldest first -/
  plo : List Word
deriving DecidableEq, Repr, Inhabited

/-- The registers of the register window that are not another unit's (`10_state.md` R120 to R140). -/
structure Regs where
  /-- `CTRL.RUN` -/
  run : Bool
  /-- `STATUS` bits 10:0; bits 31:11 read 0 (R131) -/
  status : BitVec 11
  /-- `INTF.LINE_F`, `INTF.FRAME_F`, `INTF.START_F` (R132) -/
  lineF : Bool
  frameF : Bool
  startF : Bool
  /-- `INTE.LINE_E`, `INTE.FRAME_E` (R133) -/
  lineE : Bool
  frameE : Bool
  /-- `LINEPTR` (R134) -/
  linePtr : Word
  /-- `LIVEBASE` (R135) -/
  liveBase : Word
  /-- `PENDADDR` and `PENDV.VALID` (R136) -/
  pendAddr : Word
  pendValid : Bool
  /-- `DROW.display_row` (R138) -/
  displayRow : BitVec 16
  /-- `VSWAIT.WAITING` (R139) -/
  vsWait : Bool
  /-- `BLDUTY` (R140) -/
  blDuty : Word
deriving DecidableEq, Repr, Inhabited

/-- The width of an access (`20_memory.md` R201, R204). -/
inductive Size where
  | byte
  | half
  | word
deriving DecidableEq, Repr, Inhabited

/-- A producer's command state (`10_state.md` R107): `IDLE`, or the step of a multi-step command it takes
next, with that command's local variables. -/
inductive Cmd where
  /-- `IDLE` -/
  | idle
  /-- `WAIT_VSYNC` before its step 2 (`46_host_commands.md` R830) -/
  | waitVsync
  /-- `U_READ` (R872) -/
  | uRead (src : Word) (layers : Nat) (dest : Word) (cur : Nat)
  /-- `U_COPY` with the run end `re` (R872) -/
  | uCopy (src : Word) (layers : Nat) (dest : Word) (cur re : Nat)
  /-- `UI_WAIT` (R873) -/
  | uiWait (src : Word) (layers : Nat) (pal : Word)
  /-- `UI_PAL(i)`; `dest` is sampled at `i = 0` (R873) -/
  | uiPal (src : Word) (layers : Nat) (pal dest : Word) (i : Nat)
  /-- `UI_COPY(o)` (R873) -/
  | uiCopy (src : Word) (layers : Nat) (dest : Word) (o : Nat)
  /-- `P_COPY(yy, xx)` in the region of corner `(x, y)` and size `w` by `h` (R880) -/
  | pCopy (src dest : Word) (x y w h yy xx : Nat)
deriving DecidableEq, Repr, Inhabited

/-- What a producer is asked, from outside the machine, to do next: issue a host command
(`30_encoding.md` R322), or load or store memory (`20_memory.md` R201, R205). -/
inductive Request where
  | command (c : Command)
  | load (addr : Word) (size : Size)
  | store (addr : Word) (size : Size) (value : Word)
deriving DecidableEq, Repr, Inhabited

/-- A producer: its command state (`10_state.md` R107), and the model's own fields, the requests still to be
issued and the value its last load returned (log entry 24). -/
structure Producer where
  cmd : Cmd
  queue : List Request
  loaded : Word
deriving DecidableEq, Repr, Inhabited

/-- A producer after reset: `IDLE` (`10_state.md` R107). -/
def Producer.zero : Producer where
  cmd := .idle
  queue := []
  loaded := 0

/-- How the agent of a step is chosen: freely (`00_scope.md` R9), or under the real-time premise
(`70_reset_and_hazards.md` R1020). The model's own (log entries 2 and 20). -/
inductive Policy where
  | free
  | premise
deriving DecidableEq, Repr, Inhabited

/-- One entry of the output trace (`41_timing_generator.md` R456). -/
structure TraceEntry where
  hs : Bool
  vs : Bool
  pixv : Bool
  pix : BitVec 18
deriving DecidableEq, Repr, Inhabited

/-- The run around the machine: the model's own fields (log entries 2, 6, 7, 11, 22). -/
structure Env where
  /-- how the agent of a step is chosen -/
  policy : Policy
  /-- the agents whose turns come next -/
  sched : List Agent
  /-- turns taken so far: the counter of `Config.freeAgent` -/
  turn : Nat
  /-- outcomes of the next draws of `RES_OK` -/
  draws : List Bool
  /-- draws made so far: the counter of `Config.freeResOk` -/
  drawn : Nat
  /-- the producer whose step is being taken -/
  actor : Nat
  /-- ticks taken so far: the counter of `Config.freePix` -/
  ticks : Nat
  /-- the output trace, newest entry first (`00_scope.md` R10) -/
  trace : List TraceEntry
deriving DecidableEq, Repr, Inhabited

/-- The state. -/
structure State where
  cfg : Config
  tseq : Tseq
  tgen : Tgen
  pump : Pump
  plu : Plu
  dma : Channels
  regs : Regs
  mem : List Host.Cell
  producers : List Producer
  env : Env
deriving DecidableEq, Repr

/-- The status codes of `60_exceptions.md` R900, in the order of their `STATUS` bits. -/
inductive Code where
  | initFail
  | unsupported
  | argRange
  | tqUnderrun
  | pixUnderrun
  | lineLost
  | frameLost
  | startLost
  | dmaRetrigger
  | fifoOverflow
  | busError
deriving DecidableEq, Repr, Inhabited

/-- Why the machine stops with a fault. -/
inductive Fault where
  /-- Raised by every step after an `INIT` that found a resource unavailable: no agent of the block or
  producer takes another step (`60_exceptions.md` R903). Safe: the spec says the run ends there. -/
  | fatalStop
deriving DecidableEq, Repr, Inhabited

/-- Why a step has no meaning: the model refusal mark of `60_exceptions.md` R902. -/
inductive Refusal where
  /-- Raised by `exec` for an instruction that has no meaning yet. Safe: the run stops. -/
  | notModelled (mnemonic : String)
  /-- Raised by the tick that fetches or executes a timing word with a bit of 31:20 set (`30_encoding.md`
  R303). Safe: the spec refuses it. -/
  | reservedTimingWord
  /-- Raised by a DMA trigger that would start a run of `TRANS_COUNT = 0` (`44_dma_chain.md` R610). Safe:
  the spec refuses it. -/
  | zeroTransCount
  /-- Raised by a transfer of a channel whose `DREQ` or `CHAIN_TO` is reserved, or names a unit the mode does
  not have (`10_state.md` R151, `93_implementation_defined.md` section 3). Safe: the spec refuses it. -/
  | reservedDmaCtrl
  /-- Raised by a producer access that is not naturally aligned (`20_memory.md` R204). Safe: the spec
  refuses it. -/
  | misalignedAccess
  /-- Raised by a producer access to an unmapped address (R206). Safe: the spec refuses it. -/
  | unmappedAccess
  /-- Raised by a producer access to a window that is not 32 bits wide (R205). Safe: the spec refuses it. -/
  | narrowWindowAccess
  /-- Raised by a producer store to a register or DMA window (R205). Safe: the spec refuses it. -/
  | windowStore
  /-- Raised by `construct` for a configuration that fails a check (`70_reset_and_hazards.md` R1001). Safe:
  the spec refuses it. -/
  | badConfiguration
deriving DecidableEq, Repr, Inhabited

/-- `STATUS` after `construct`: 0, or `UNSUPPORTED` for a rotation other than 0 or 180 (`60_exceptions.md`
R905). -/
def constructStatus (c : Config) : BitVec 11 :=
  if c.rotation = 0 ∨ c.rotation = 180 then 0x000 else 0x002

/-- The state `construct` leaves for a configuration (`10_state.md` R180). `HS`, `VS`, `PIX` and `PIXV` have
no value there in the spec and are 0 here (log entry 10); `env` is the model's own (log entry 11). -/
def State.ofConfig (c : Config) : State where
  cfg := c
  tseq := { en := false, phase := 0, row := 0 }
  tgen := { en := false, word := 0, remain := 0, hs := false, vs := false, tq := [] }
  pump := { en := false, st := .waitStart, left := 0, hv := false, hi := 0, pf := [], pixv := false, pix := 0 }
  plu := { en := false, sr := 0, n := 0, pli := [], plo := [] }
  dma := { a := .zero, b := .zero, c := .zero, d := .zero }
  regs :=
    { run := false
      status := constructStatus c
      lineF := false
      frameF := false
      startF := false
      lineE := false
      frameE := false
      linePtr := 0
      liveBase := c.fb0
      pendAddr := 0
      pendValid := false
      displayRow := 0
      vsWait := false
      blDuty := 0 }
  mem := []
  producers := List.replicate c.nprod .zero
  env :=
    { policy := .free
      sched := []
      turn := 0
      draws := []
      drawn := 0
      actor := 0
      ticks := 0
      trace := [] }

/-- The machine right after reset: `construct` with the configuration `EX2` of `95_test_vectors.md` (log
entry 3). -/
def State.reset : State := State.ofConfig Config.ex2

end Sys2Proof.Machine
end

