-- ==== Sys2Proof/Machine/Flags.lean ====
section
/-! DEFINITION. The status and flag computations: the `STATUS` bit of each code, the words the flag and
position registers read as, the VSYNC level, the trigger flags and the dispatcher's enable. -/

namespace Sys2Proof.Machine

/-- The `STATUS` bit of a code (`10_state.md` R131, `60_exceptions.md` R900). -/
def Code.mask : Code → BitVec 11
  | .initFail => 0x001
  | .unsupported => 0x002
  | .argRange => 0x004
  | .tqUnderrun => 0x008
  | .pixUnderrun => 0x010
  | .lineLost => 0x020
  | .frameLost => 0x040
  | .startLost => 0x080
  | .dmaRetrigger => 0x100
  | .fifoOverflow => 0x200
  | .busError => 0x400

/-- `STATUS` as read: bits 31:11 are 0 (R131). -/
def statusWord (s : State) : Word := s.regs.status.setWidth 32

/-- `CTRL` (R120): `RUN`, `MODE`, `ROW_SHIFT`, `ROT180` from bit 0 up. -/
def ctrlWord (s : State) : Word :=
  0#28 ++ BitVec.ofBool s.cfg.rot180 ++ BitVec.ofBool s.cfg.rowShift ++
    BitVec.ofBool (decide (s.cfg.mode = .indexed)) ++ BitVec.ofBool s.regs.run

/-- `INTF` (R132): `LINE_F`, `FRAME_F`, `START_F` from bit 0 up. -/
def intfWord (s : State) : Word :=
  0#29 ++ BitVec.ofBool s.regs.startF ++ BitVec.ofBool s.regs.frameF ++ BitVec.ofBool s.regs.lineF

/-- `INTE` (R133): `LINE_E`, `FRAME_E` from bit 0 up. -/
def inteWord (s : State) : Word :=
  0#30 ++ BitVec.ofBool s.regs.frameE ++ BitVec.ofBool s.regs.lineE

/-- `PENDV` (R136): bit 0 `VALID`. -/
def pendvWord (s : State) : Word := 0#31 ++ BitVec.ofBool s.regs.pendValid

/-- `TPOS` (R137): `timing_row` in bits 15:0, `timing_phase` in bits 17:16. -/
def tposWord (s : State) : Word := 0#14 ++ s.tseq.phase ++ s.tseq.row

/-- `DROW` (R138): `display_row` in bits 15:0. -/
def drowWord (s : State) : Word := 0#16 ++ s.regs.displayRow

/-- `VSWAIT` (R139): bit 0 `WAITING`. -/
def vswaitWord (s : State) : Word := 0#31 ++ BitVec.ofBool s.regs.vsWait

/-- A DMA channel's `CTRL` as read (R151): `EN` is bit 0 and `CHAIN_TO` bits 10:8. -/
def Ctrl.toWord (c : Ctrl) : Word :=
  0#21 ++ c.chainTo ++ c.dreq ++ BitVec.ofBool c.bswap ++ BitVec.ofBool c.incrWrite ++
    BitVec.ofBool c.incrRead ++ BitVec.ofBool c.busy ++ BitVec.ofBool c.en

/-- `VSYNC_LEVEL(r)` (`40_timing_sequencer.md` R406). -/
def vsyncLevel (c : Config) (r : Nat) : Bool := decide (c.vPulse ≤ r)

/-- The trigger of a phase-2 word: `LINE_READY` on the active lines (R403). -/
def backPorchTrig (c : Config) (r : Nat) : Trig :=
  if c.vBack ≤ r ∧ r < c.vDisplay then .lineReady else .none

/-- The trigger of a phase-3 word (R404). -/
def displayTrig (c : Config) (r : Nat) : Trig :=
  if r = c.vDisplay then .frameReady
  else if c.vBack - 1 ≤ r ∧ r < c.vDisplay then .nextLine
  else .none

/-- A frame event is pending and enabled (`60_exceptions.md` R910). -/
def framePending (s : State) : Bool := s.regs.frameF && s.regs.frameE

/-- A line event is pending and enabled (R910). -/
def linePending (s : State) : Bool := s.regs.lineF && s.regs.lineE

/-- The fatal stop has happened: `STATUS.INIT_FAIL` is set, which only `FATAL_STOP` does
(`60_exceptions.md` R903). -/
def isStopped (s : State) : Bool := s.regs.status.getLsbD 0

end Sys2Proof.Machine
end

