-- ==== Sys2Proof/Machine/Memory.lean ====
section
/-! DEFINITION. Memory as a list of (address, byte) pairs in one canonical form, and the little-endian
accesses built from its bytes (`20_memory.md` R203). -/

namespace Sys2Proof.Machine

/-- What a byte of memory that nothing has written reads as. The spec gives RAM no initial contents
(`10_state.md` R160, R162); the model reads 0. DESIGN CHOICE, unsafe (log entry 9). -/
def unlistedByte : Byte := 0

/-- The byte at address `a`. -/
def Memory.read : List Host.Cell → Nat → Byte
  | [], _ => unlistedByte
  | (b, v) :: m, a => if b = a then v else Memory.read m a

/-- Write one byte, keeping addresses rising and listing no byte equal to `unlistedByte`. -/
def Memory.write : List Host.Cell → Nat → Byte → List Host.Cell
  | [], a, v => if v = unlistedByte then [] else [(a, v)]
  | (b, w) :: m, a, v =>
    if a < b then (if v = unlistedByte then (b, w) :: m else (a, v) :: (b, w) :: m)
    else if a = b then (if v = unlistedByte then m else (a, v) :: m)
    else (b, w) :: Memory.write m a v

/-- Every address listed is at least `lo`, addresses rise strictly, and no listed byte is `unlistedByte`. -/
def Memory.wfFrom : Nat → List Host.Cell → Bool
  | _, [] => true
  | lo, (a, v) :: m => decide (lo ≤ a) && decide (v ≠ unlistedByte) && Memory.wfFrom (a + 1) m

/-- The canonical form. -/
def Memory.wf (m : List Host.Cell) : Bool := Memory.wfFrom 0 m

/-- The number of bytes of an access (`20_memory.md` R201). -/
def Size.bytes : Size → Nat
  | .byte => 1
  | .half => 2
  | .word => 4

/-- `n` bytes from address `a`, the byte at `a` least significant (R203). -/
def Memory.loadBytes (m : List Host.Cell) : Nat → Nat → Word
  | _, 0 => 0
  | a, n + 1 => (Memory.read m a).setWidth 32 ||| (Memory.loadBytes m (a + 1) n <<< 8)

/-- Store the low `n` bytes of `v` from address `a` up, least significant first (R203). -/
def Memory.storeBytes (m : List Host.Cell) : Nat → Nat → Word → List Host.Cell
  | _, 0, _ => m
  | a, n + 1, v => Memory.storeBytes (Memory.write m a (v.setWidth 8)) (a + 1) n (v >>> 8)

/-- `MemRead(a, n)` (`00_scope.md` R7), zero-extended to 32 bits. -/
def memRead (m : List Host.Cell) (a : Word) (z : Size) : Word := Memory.loadBytes m a.toNat z.bytes

/-- `MemWrite(a, n, v)` (R7). -/
def memWrite (m : List Host.Cell) (a : Word) (z : Size) (v : Word) : List Host.Cell :=
  Memory.storeBytes m a.toNat z.bytes v

end Sys2Proof.Machine
end

