-- ==== Sys2Proof/Machine/Operands.lean ====
section
/-! DEFINITION. The operand forms: the fields of a timing word as TGEN uses them, the arguments of the host
commands with their range checks, colours and palette entries, and the pixel formats. -/

namespace Sys2Proof.Machine

/-- The cycles of a word with wait count `count` (`41_timing_generator.md` R451, `30_encoding.md` R302). -/
def wordCycles (count : BitVec 16) : BitVec 17 := count.setWidth 17 + 3#17

/-- `(H - 3)[15:0]`: the wait count of a phase of `h` cycles (`40_timing_sequencer.md` R401). -/
def waitCount (h : Nat) : BitVec 16 := BitVec.ofNat 16 (h - 3)

/-- The address `n` bytes past `a`, modulo 2^32 (`00_scope.md` R6). -/
def offset (a : Word) (n : Nat) : Word := a + BitVec.ofNat 32 n

/-- `ENC_PAL8` (`43_palette_lookup.md` R560). -/
def encPal8 (r g b : BitVec 8) : Word :=
  let r5 : BitVec 5 := r.extractLsb' 3 5
  r5 ++ g.extractLsb' 2 6 ++ b.extractLsb' 2 6 ++ r5.extractLsb' 0 1 ++ 0#14

/-- `ENC_PAL6` (`43_palette_lookup.md` R561). -/
def encPal6 (r g b : BitVec 6) : Word :=
  let r5 : BitVec 5 := r.extractLsb' 1 5
  r5 ++ g ++ b ++ r5.extractLsb' 0 1 ++ 0#14

/-- The palette entry of a colour argument `0x00RRGGBB`; bits 31:24 are ignored (`43_palette_lookup.md`
R562). -/
def encColour (c : Word) : Word :=
  encPal8 (c.extractLsb' 16 8) (c.extractLsb' 8 8) (c.extractLsb' 0 8)

/-- The address of palette entry `i` (`10_state.md` R160). -/
def paletteAddr (c : Config) (i : Nat) : Word := offset c.paletteBase (4 * i)

/-- The pixel output of a palette entry (`30_encoding.md` R331, `43_palette_lookup.md` R563). -/
def entryPix (w : Word) : BitVec 18 := w.extractLsb' 14 18

/-- Index `k` of a packed-index word, `k = 0 .. 3` (`30_encoding.md` R333). -/
def packedIndex (w : Word) (k : Nat) : BitVec 8 := w.extractLsb' (8 * k) 8

/-- The access width of one pixel (`00_scope.md` R1). -/
def pixelSize (c : Config) : Size :=
  match c.mode with
  | .direct => .half
  | .indexed => .byte

/-- The backlight duty of brightness `b`, `b <= 255` (`46_host_commands.md` R860). -/
def backlightDuty (c : Config) (b : Nat) : Word :=
  if b = 0 then 0
  else if b = 255 then c.pwmTop
  else BitVec.ofNat 32 (181 + (b * b) / 85)

/-- The source of an `UPDATE` or `PARTIAL_UPDATE` of `n` layers is acceptable (`46_host_commands.md` R870,
R880). The sum is taken in the naturals. -/
def sourceOk (c : Config) (src : Word) (n : Nat) : Bool :=
  decide (src.toNat % 4 = 0) && c.inRam src (n * c.bufBytes)

/-- The source palette of an indexed `UPDATE` is acceptable (R870). -/
def sourcePaletteOk (c : Config) (sp : Word) : Bool :=
  decide (sp.toNat % 4 = 0) && c.inRam sp 1024

/-- The arguments of an `UPDATE` pass its checks (R870). -/
def updateArgsOk (c : Config) (src : Word) (n : Nat) (sp : Word) : Bool :=
  decide (n ≠ 0) && sourceOk c src n && (match c.mode with
    | .direct => true
    | .indexed => sourcePaletteOk c sp)

/-- The region lies in the frame (R880). -/
def regionOk (c : Config) (x y w h : Nat) : Bool :=
  decide (x + w ≤ c.width) && decide (y + h ≤ c.bufRows)

/-- `BOUNDARY(lp, dest)`: the byte offset below which an `UPDATE` may write (`46_host_commands.md` R871).
Addresses are compared as naturals (log entry 18). -/
def boundary (c : Config) (lp dest : Word) : Nat :=
  if lp = 0 ∨ lp = dest ∨ lp.toNat < dest.toNat ∨ dest.toNat + c.bufBytes ≤ lp.toNat then c.bufBytes
  else if c.stride ≤ lp.toNat - dest.toNat then lp.toNat - dest.toNat - c.stride
  else 0

end Sys2Proof.Machine
end

