-- ==== Sys2Proof/Machine/Ops.lean ====
section
/-! DEFINITION. The shared operations: raising a fault and refusing a command (the block's only exceptions),
the FIFOs, the register and DMA windows, the DMA trigger, and the loads and stores of producers and of DMA
channels. -/

namespace Sys2Proof.Machine

/-! ## Taking a fault -/

/-- `raise Fault(code)`: sets the sticky `STATUS` bit and nothing else. There is no trap, vector, saved
state or return; the raising rule goes on (`60_exceptions.md` R901). -/
def raise (c : Code) (s : State) : State :=
  { s with regs := { s.regs with status := s.regs.status ||| c.mask } }

/-- `refuse(code)`: ends a host command in its first step with no change but the `STATUS` bit
(`60_exceptions.md` R904). The producer stays `IDLE`. -/
def refuse (c : Code) (s : State) : State := raise c s

/-- `raise Fault(INIT_FAIL); FATAL_STOP()`: from here no agent takes another step (`60_exceptions.md` R903);
`isStopped` reads the bit this sets. -/
def fatalStop (s : State) : State := raise .initFail s

/-- Raise the code when the condition holds. -/
def raiseIf (b : Bool) (c : Code) (s : State) : State := if b then raise c s else s

/-! ## FIFOs (`00_scope.md` R7) -/

/-- `full(Q)` for a FIFO of depth `d`. -/
def full (d : Nat) (q : List Word) : Bool := decide (q.length = d)

/-- `push(Q, v)`. -/
def push (q : List Word) (v : Word) : List Word := q ++ [v]

/-! ## Channels -/

/-- The registers of channel `n`. -/
def Channels.get (d : Channels) : ChanId → Channel
  | .a => d.a
  | .b => d.b
  | .c => d.c
  | .d => d.d

/-- Replace the registers of channel `n`. -/
def Channels.set (d : Channels) (n : ChanId) (x : Channel) : Channels :=
  match n with
  | .a => { d with a := x }
  | .b => { d with b := x }
  | .c => { d with c := x }
  | .d => { d with d := x }

/-- The registers of channel `n`. -/
def State.chan (s : State) (n : ChanId) : Channel := s.dma.get n

/-- The state with channel `n` replaced. -/
def State.setChan (s : State) (n : ChanId) (x : Channel) : State := { s with dma := s.dma.set n x }

/-- The index of a channel (`44_dma_chain.md` R600). -/
def chanIndex : ChanId → Nat
  | .a => 0
  | .b => 1
  | .c => 2
  | .d => 3

/-- The channel a `CHAIN_TO` value names; 4 to 7 are reserved (`10_state.md` R151). -/
def chanOf (b : BitVec 3) : Option ChanId :=
  if b = 0 then some .a
  else if b = 1 then some .b
  else if b = 2 then some .c
  else if b = 3 then some .d
  else none

/-- A channel that a run has been ended on or never started on. -/
def Channel.idle (x : Channel) : Channel := { x with ctrl := { x.ctrl with busy := false }, remain := 0 }

/-- A channel reading from `v` whose run has just started. -/
def Channel.started (x : Channel) (v : Word) : Channel :=
  { x with readAddr := v, ctrl := { x.ctrl with busy := true }, remain := x.transCount }

/-- `trigger(n, v)` (`44_dma_chain.md` R610). A run of `TRANS_COUNT = 0` is refused. -/
def trigger (n : ChanId) (v : Word) (s : State) : Except Refusal State :=
  let x := s.chan n
  let s1 := raiseIf x.ctrl.busy .dmaRetrigger s
  if v = 0 ∨ x.ctrl.en = false then
    .ok (s1.setChan n { x with readAddr := v }.idle)
  else if x.transCount = 0 then
    .error .zeroTransCount
  else
    .ok (s1.setChan n (x.started v))

/-- `abort(n)` (`44_dma_chain.md` R615). -/
def abort (n : ChanId) (s : State) : State := s.setChan n (s.chan n).idle

/-! ## Address decoding (`20_memory.md` R201, R202, R206) -/

/-- Where an access of some width falls; a window gives the offset into it. -/
inductive Region where
  | ram
  | regWin (off : Nat)
  | dmaWin (off : Nat)
  | unmapped
deriving DecidableEq, Repr, Inhabited

/-- The region of an access of `n` bytes at `a`. -/
def region (c : Config) (a : Word) (n : Nat) : Region :=
  if c.inRam a n then .ram
  else if c.regBase.toNat ≤ a.toNat ∧ a.toNat + n ≤ c.regBase.toNat + 256 then
    .regWin (a.toNat - c.regBase.toNat)
  else if c.dmaBase.toNat ≤ a.toNat ∧ a.toNat + n ≤ c.dmaBase.toNat + 256 then
    .dmaWin (a.toNat - c.dmaBase.toNat)
  else .unmapped

/-- The access is naturally aligned (`20_memory.md` R204). -/
def aligned (a : Word) (z : Size) : Bool := decide (a.toNat % z.bytes = 0)

/-- The offsets of the FIFO ports (`10_state.md` R110, R141), and of `LINEPTR`. -/
def offPumpTxf : Nat := 0x40
def offPluInf : Nat := 0x44
def offPluOutf : Nat := 0x48
def offLinePtr : Nat := 0x10

/-- The offset of a channel's `READ_ADDR_TRIG` in its block (`10_state.md` R150). -/
def offTrig : Nat := 0x10

/-- The value of the register at an offset of the register window, without side effect (`10_state.md` R110).
The ports and the reserved offsets read 0. -/
def regRead (s : State) (off : Nat) : Word :=
  if off = 0x00 then ctrlWord s
  else if off = 0x04 then statusWord s
  else if off = 0x08 then intfWord s
  else if off = 0x0C then inteWord s
  else if off = offLinePtr then s.regs.linePtr
  else if off = 0x14 then s.regs.liveBase
  else if off = 0x18 then s.regs.pendAddr
  else if off = 0x1C then pendvWord s
  else if off = 0x20 then tposWord s
  else if off = 0x24 then drowWord s
  else if off = 0x28 then vswaitWord s
  else if off = 0x2C then s.regs.blDuty
  else 0

/-- The channel whose block an offset of the DMA window falls in (`10_state.md` R150). -/
def chanAt (off : Nat) : ChanId :=
  if off < 0x40 then .a
  else if off < 0x80 then .b
  else if off < 0xC0 then .c
  else .d

/-- The value of the register at an offset of the DMA window (`10_state.md` R150). A load of
`READ_ADDR_TRIG` gives `READ_ADDR`; the reserved offsets read 0. The blocks of C and D are there in direct mode too
(DEDUCED, log entry 16). -/
def dmaRegRead (s : State) (off : Nat) : Word :=
  let x := s.chan (chanAt off)
  let r := off % 0x40
  if r = 0x00 then x.readAddr
  else if r = 0x04 then x.writeAddr
  else if r = 0x08 then x.transCount
  else if r = 0x0C then x.ctrl.toWord
  else if r = offTrig then x.readAddr
  else if r = 0x14 then x.remain
  else 0

/-! ## Producer accesses -/

/-- A producer's load (`20_memory.md` R204 to R206). It has no side effect: only DMA channels reach the
ports (`10_state.md` R141, log entry 14). -/
def producerLoad (s : State) (a : Word) (z : Size) : Except Refusal Word :=
  if aligned a z = false then .error .misalignedAccess
  else match region s.cfg a z.bytes with
    | .ram => .ok (memRead s.mem a z)
    | .regWin off => if z = .word then .ok (regRead s off) else .error .narrowWindowAccess
    | .dmaWin off => if z = .word then .ok (dmaRegRead s off) else .error .narrowWindowAccess
    | .unmapped => .error .unmappedAccess

/-- A producer's store: to RAM only (`20_memory.md` R204 to R206). -/
def producerStore (s : State) (a : Word) (z : Size) (v : Word) : Except Refusal State :=
  if aligned a z = false then .error .misalignedAccess
  else match region s.cfg a z.bytes with
    | .ram => .ok { s with mem := memWrite s.mem a z v }
    | .regWin _ => .error .windowStore
    | .dmaWin _ => .error .windowStore
    | .unmapped => .error .unmappedAccess

/-! ## DMA accesses, always 32 bits wide (`10_state.md` R151) -/

/-- `raise Fault(BUS_ERROR)` and load 0 (`20_memory.md` R206). -/
def badLoad (s : State) : Word × State := (0, raise .busError s)

/-- A DMA load from `PLU_OUTF`: pops `PLO`, or returns 0 and raises `FIFO_OVERFLOW` when it is empty
(`10_state.md` R141). -/
def popPlo (s : State) : Word × State :=
  match s.plu.plo with
  | [] => (0, raise .fifoOverflow s)
  | v :: q => (v, { s with plu := { s.plu with plo := q } })

/-- A DMA load of the word at `a` (`20_memory.md` R205, R206; a misaligned one is a bus error, log entry
15). -/
def dmaLoad (s : State) (a : Word) : Word × State :=
  if aligned a .word = false then badLoad s
  else match region s.cfg a 4 with
    | .ram => (memRead s.mem a .word, s)
    | .regWin off =>
      if off = offPluOutf ∧ s.cfg.mode = .indexed then popPlo s else (regRead s off, s)
    | .dmaWin off => (dmaRegRead s off, s)
    | .unmapped => badLoad s

/-- A DMA store to `PUMP_TXF`: pushes `PF`, or discards and raises `FIFO_OVERFLOW` when it is full
(`10_state.md` R141). -/
def pushPf (s : State) (v : Word) : State :=
  if full s.cfg.pfDepth s.pump.pf then raise .fifoOverflow s
  else { s with pump := { s.pump with pf := push s.pump.pf v } }

/-- A DMA store to `PLU_INF`: pushes `PLI` likewise (`10_state.md` R141). -/
def pushPli (s : State) (v : Word) : State :=
  if full s.cfg.pliDepth s.plu.pli then raise .fifoOverflow s
  else { s with plu := { s.plu with pli := push s.plu.pli v } }

/-- A DMA store into the register window: legal only to the ports, and any other is discarded with `BUS_ERROR`
(`20_memory.md` R205, `60_exceptions.md` R900). A store to the port `PLU_OUTF` has no effect (`10_state.md` R141;
DEDUCED over R205's general words, log entry 13). -/
def portStore (s : State) (off : Nat) (v : Word) : State :=
  if off = offPumpTxf then pushPf s v
  else if off = offPluInf ∧ s.cfg.mode = .indexed then pushPli s v
  else if off = offPluOutf ∧ s.cfg.mode = .indexed then s
  else raise .busError s

/-- A DMA store of `v` to `a` (`20_memory.md` R205, R206). A store to the `READ_ADDR_TRIG` alias of a channel
that exists is a trigger (`10_state.md` R150). A store to RAM writes it (log entry 21). -/
def dmaStore (s : State) (a v : Word) : Except Refusal State :=
  if aligned a .word = false then .ok (raise .busError s)
  else match region s.cfg a 4 with
    | .ram => .ok { s with mem := memWrite s.mem a .word v }
    | .regWin off => .ok (portStore s off v)
    | .dmaWin off =>
      if off % 0x40 = offTrig ∧ s.cfg.hasChan (chanAt off) = true then trigger (chanAt off) v s
      else .ok (raise .busError s)
    | .unmapped => .ok (raise .busError s)

/-! ## Producers' command state -/

/-- The state with producer `n` replaced. -/
def State.setProducer (s : State) (n : Nat) (p : Producer) : State :=
  { s with producers := s.producers.set n p }

/-- The producer whose step is being taken goes to command state `c`. -/
def State.setCmd (s : State) (c : Cmd) : State :=
  match s.producers[s.env.actor]? with
  | none => s
  | some p => s.setProducer s.env.actor { p with cmd := c }

/-! ## Draws -/

/-- The next draw of `RES_OK`: supplied by the run's list, else free (log entry 7). -/
def resOk (s : State) : Bool :=
  match s.env.draws with
  | [] => Config.freeResOk s.env.drawn
  | b :: _ => b

/-- The state after a draw of `RES_OK`. -/
def drawn (s : State) : State :=
  { s with env := { s.env with draws := s.env.draws.tail, drawn := s.env.drawn + 1 } }

/-- A shared operation's result as the outcome of a step. -/
def outcomeOf : Except Refusal State → Host.Outcome State Fault Refusal
  | .ok s => .next s
  | .error r => .refused r

end Sys2Proof.Machine
end

