-- ==== Sys2Proof/Machine/Pump.lean ====
section
/-! DEFINITION. PUMP, the pixel pump (`42_pixel_pump.md`). -/

namespace Sys2Proof.Machine

/-- `PUMP_FORCE_ENTRY` (R511). The outputs and `PUMP_EN` are not touched. -/
def Pump.forceEntry (p : Pump) : Pump :=
  { p with pf := [], st := .waitStart, left := 0, hv := false, hi := 0 }

/-- `FETCH_INDEXED` (R506): the pixel and the pump after the pop, or nothing when `PF` is empty. -/
def Pump.fetchIndexed (p : Pump) : Option (BitVec 18 × Pump) :=
  match p.pf with
  | [] => none
  | w :: q => some (entryPix w, { p with pf := q })

/-- `FETCH_DIRECT` (R507): the low half of a popped word first, the held high half next. -/
def Pump.fetchDirect (p : Pump) : Option (BitVec 18 × Pump) :=
  if p.hv then some (Config.encodePixelWordDirect p.hi, { p with hv := false })
  else match p.pf with
    | [] => none
    | w :: q =>
      some (Config.encodePixelWordDirect (w.extractLsb' 0 16),
        { p with pf := q, hi := w.extractLsb' 16 16, hv := true })

/-- The fetch of the mode (R505). -/
def Pump.fetch (c : Config) (p : Pump) : Option (BitVec 18 × Pump) :=
  match c.mode with
  | .direct => p.fetchDirect
  | .indexed => p.fetchIndexed

/-- The pump after it has put out pixel `px` (R505). -/
def Pump.emitted (p : Pump) (px : BitVec 18) : Pump :=
  { p with
    pix := px
    pixv := true
    left := p.left - 1
    st := if p.left - 1 = 0 then .waitStart else p.st }

/-- `PUMP_EMIT` with `PUMP_UNDERRUN` (R505, R508). -/
def pumpEmit (s : State) : State :=
  match s.pump.fetch s.cfg with
  | none => raise .pixUnderrun s
  | some (px, p) => { s with pump := p.emitted px }

/-- `PUMP_START` (R504). -/
def pumpStart (s : State) : State :=
  { s with
    regs := { s.regs with startF := false }
    pump := { s.pump with st := .shift, left := BitVec.ofNat 16 s.cfg.width } }

/-- The outputs of a tick before the pump has emitted anything: `PIXV = 0`, `PIX` any value (R502, R510;
log entry 6). -/
def pumpIdleOutput (s : State) : State :=
  { s with pump := { s.pump with pixv := false, pix := Config.freePix s.env.ticks } }

/-- `PUMP_CYCLE(start)` (R502, R503, R509): `start` is `START_F` as sampled at the start of the tick. -/
def pumpCycle (start : Bool) (s : State) : State :=
  let s0 := pumpIdleOutput s
  if s0.pump.en = false then s0
  else
    let s1 := if s0.pump.st = .waitStart ∧ start = true then pumpStart s0 else s0
    if s1.pump.st = .shift then pumpEmit s1 else s1

end Sys2Proof.Machine
end

