-- ==== Sys2Proof/Machine/Generator.lean ====
section
/-! DEFINITION. TGEN, the timing generator engine (`41_timing_generator.md`): the parts of the tick, and the
meaning of each timing word. A tick runs, in this order, the fetch, the drive and the count of TGEN, the
pump, and the delivery of the trigger (R450). -/

namespace Sys2Proof.Machine

/-- The tick's trace entry (R456), and the tick is counted. -/
def emitTrace (s : State) : State :=
  { s with
    env := { s.env with
      trace := ⟨s.tgen.hs, s.tgen.vs, s.pump.pixv, s.pump.pix⟩ :: s.env.trace
      ticks := s.env.ticks + 1 } }

/-- `TGEN_DELIVER` (R455): the trigger's flag is set, and its `*_LOST` code raised if it still was. -/
def deliver (t : Trig) (s : State) : State :=
  match t with
  | .none => s
  | .lineReady =>
    let s1 := raiseIf s.regs.startF .startLost s
    { s1 with regs := { s1.regs with startF := true } }
  | .nextLine =>
    let s1 := raiseIf s.regs.lineF .lineLost s
    { s1 with regs := { s1.regs with lineF := true } }
  | .frameReady =>
    let s1 := raiseIf s.regs.frameF .frameLost s
    { s1 with regs := { s1.regs with frameF := true } }

/-- The load of `TGEN_FETCH` (R451): a word that begins in this tick becomes `TG_WORD` with its cycles to
go; a word in execution stays. -/
def Tgen.loadWord (g : Tgen) (w : Word) (count : BitVec 16) : Tgen :=
  if g.remain = 0 then { g with word := w, remain := wordCycles count } else g

/-- `TGEN_DRIVE` and the decrement of `TGEN_COUNT` (R452, R453). -/
def Tgen.cycle (g : Tgen) (hs vs : Bool) : Tgen :=
  { g with hs := hs, vs := vs, remain := g.remain - 1 }

/-- One tick with the timing word of trigger `t` and the given fields in execution (R450 to R455). Where no
word was in execution (`TG_REMAIN = 0`) this is the word's first cycle; the trigger is delivered in its
last. -/
def wordTick (t : Trig) (count : BitVec 16) (hs vs : Bool) (s : State) : State :=
  let g := (s.tgen.loadWord (timingWord t vs hs count) count).cycle hs vs
  let s1 := pumpCycle s.regs.startF { s with tgen := g }
  let s2 := if g.remain = 0 then deliver t s1 else s1
  emitTrace s2

/-- A tick that needs a word and finds `TQ` empty (R454): TGEN stalls and the pump runs. -/
def stallTick (s : State) : State :=
  emitTrace (pumpCycle s.regs.startF (raise .tqUnderrun s))

/-- `TW.NONE`: one cycle of the word; no trigger (R451 to R453, R455). -/
def execTwNone (count : BitVec 16) (hs vs : Bool) (s : State) : Host.Outcome State Fault Refusal :=
  .next (wordTick .none count hs vs s)

/-- `TW.LINE_READY`: one cycle of the word; `START_F` in the last (R451 to R453, R455). -/
def execTwLineReady (count : BitVec 16) (hs vs : Bool) (s : State) : Host.Outcome State Fault Refusal :=
  .next (wordTick .lineReady count hs vs s)

/-- `TW.NEXT_LINE`: one cycle of the word; `LINE_F` in the last (R451 to R453, R455). -/
def execTwNextLine (count : BitVec 16) (hs vs : Bool) (s : State) : Host.Outcome State Fault Refusal :=
  .next (wordTick .nextLine count hs vs s)

/-- `TW.FRAME_READY`: one cycle of the word; `FRAME_F` in the last (R451 to R453, R455). -/
def execTwFrameReady (count : BitVec 16) (hs vs : Bool) (s : State) : Host.Outcome State Fault Refusal :=
  .next (wordTick .frameReady count hs vs s)

/-- A TGEN start step is enabled (R457). -/
def tgenStartEnabled (s : State) : Bool :=
  s.regs.run && s.tseq.en && !s.tgen.en && full s.cfg.tqDepth s.tgen.tq

/-- A TGEN start step (R457). -/
def tgenStartStep (s : State) : State := { s with tgen := { s.tgen with en := true } }

end Sys2Proof.Machine
end

