-- ==== Sys2Proof/Machine/Dma.lean ====
section
/-! DEFINITION. The DMA channels (`44_dma_chain.md`): pacing, transfer, completion, and the two topologies
`INIT` programs. The trigger and the abort are in `Ops.lean`. -/

namespace Sys2Proof.Machine

/-- `DREQ_OK(d)` (R601); 4 to 7 are reserved and never hold. -/
def dreqOk (s : State) (d : BitVec 3) : Bool :=
  if d = 0 then true
  else if d = 1 then !full s.cfg.pfDepth s.pump.pf
  else if d = 2 then !full s.cfg.pliDepth s.plu.pli
  else if d = 3 then !s.plu.plo.isEmpty
  else false

/-- A `CHAIN_TO` value names a channel that exists (`10_state.md` R151). -/
def chainOk (c : Config) (b : BitVec 3) : Bool :=
  match chanOf b with
  | none => false
  | some n => c.hasChan n

/-- A `DREQ` value is legal in the mode: `PLU_IN` and `PLU_OUT` only when there is a PLU (`10_state.md`
R105, R151). -/
def paceOk (c : Config) (d : BitVec 3) : Bool :=
  match c.mode with
  | .direct => decide (d.toNat ≤ 1)
  | .indexed => decide (d.toNat ≤ 3)

/-- The channel's `CTRL` holds no reserved value (`10_state.md` R151). -/
def ctrlOk (c : Config) (x : Ctrl) : Bool := paceOk c x.dreq && chainOk c x.chainTo

/-- The channel exists and has a run in progress with transfers to go (R611, but for the pacing). -/
def dmaRunning (n : ChanId) (s : State) : Bool :=
  s.cfg.hasChan n && (s.chan n).ctrl.en && (s.chan n).ctrl.busy && decide ((s.chan n).remain ≠ 0)

/-- A step of channel `n` is due: a transfer is enabled (R611), or the channel runs with a reserved `CTRL`,
which the model refuses (log entry 23). -/
def dmaEnabled (n : ChanId) (s : State) : Bool :=
  dmaRunning n s && (!ctrlOk s.cfg (s.chan n).ctrl || dreqOk s (s.chan n).ctrl.dreq)

/-- `BSWAP_FN(b, v) = v` (R613). -/
def bswapFn (_b : Bool) (v : Word) : Word := v

/-- `DMA_COMPLETE` (R614). -/
def dmaComplete (n : ChanId) (s : State) : Except Refusal State :=
  let x := s.chan n
  let s1 := s.setChan n { x with ctrl := { x.ctrl with busy := false } }
  match chanOf x.ctrl.chainTo with
  | none => .error .reservedDmaCtrl
  | some m => if m = n then .ok s1 else trigger m (s1.chan m).readAddr s1

/-- The channel after one of its transfers has been counted (R612). -/
def Channel.counted (x : Channel) : Channel :=
  { x with
    readAddr := if x.ctrl.incrRead then x.readAddr + 4 else x.readAddr
    writeAddr := if x.ctrl.incrWrite then x.writeAddr + 4 else x.writeAddr
    remain := x.remain - 1 }

/-- The end of `DMA_TRANSFER`, after its load and store: the counts and the completion (R612). -/
def dmaCount (n : ChanId) (s : State) : Except Refusal State :=
  let s1 := s.setChan n (s.chan n).counted
  if (s1.chan n).remain = 0 then dmaComplete n s1 else .ok s1

/-- `DMA_TRANSFER` (R612): one word, load and store in one step. -/
def dmaTransfer (n : ChanId) (s : State) : Except Refusal State :=
  let x := s.chan n
  let l := dmaLoad s x.readAddr
  match dmaStore l.2 x.writeAddr (bswapFn x.ctrl.bswap l.1) with
  | .error r => .error r
  | .ok s1 => dmaCount n s1

/-- A step of channel `n` when it is due. -/
def dmaStep (n : ChanId) (s : State) : Except Refusal State :=
  if ctrlOk s.cfg (s.chan n).ctrl then dmaTransfer n s else .error .reservedDmaCtrl

/-- The addresses the topologies use (R640, R650). -/
def addrPumpTxf (c : Config) : Word := offset c.regBase offPumpTxf
def addrPluInf (c : Config) : Word := offset c.regBase offPluInf
def addrPluOutf (c : Config) : Word := offset c.regBase offPluOutf
def addrLinePtr (c : Config) : Word := offset c.regBase offLinePtr

/-- The address of channel `n`'s `READ_ADDR_TRIG` (`10_state.md` R150). -/
def addrTrig (c : Config) (n : ChanId) : Word := offset c.dmaBase (0x40 * chanIndex n + offTrig)

/-- Channel A as `INIT` programs it: `CTRL = 0x135` direct (R640), `0x145` indexed (R650). -/
def programA (c : Config) : Channel where
  readAddr := 0
  writeAddr := match c.mode with
    | .direct => addrPumpTxf c
    | .indexed => addrPluInf c
  transCount := BitVec.ofNat 32 c.lineWords
  ctrl := match c.mode with
    | .direct => ⟨true, false, true, false, true, 1, 1⟩
    | .indexed => ⟨true, false, true, false, false, 2, 1⟩
  remain := 0

/-- Channel B as `INIT` programs it: `CTRL = 0x101` (R640, R650). -/
def programB (c : Config) : Channel where
  readAddr := addrLinePtr c
  writeAddr := addrTrig c .a
  transCount := 1
  ctrl := ⟨true, false, false, false, false, 0, 1⟩
  remain := 0

/-- Channel C as `INIT` programs it in indexed mode: `CTRL = 0x261` (R650). -/
def programC (c : Config) : Channel where
  readAddr := addrPluOutf c
  writeAddr := addrTrig c .d
  transCount := 1
  ctrl := ⟨true, false, false, false, false, 3, 2⟩
  remain := 0

/-- Channel D as `INIT` programs it in indexed mode: `CTRL = 0x221` (R650). -/
def programD (c : Config) : Channel where
  readAddr := 0
  writeAddr := addrPumpTxf c
  transCount := 1
  ctrl := ⟨true, false, false, false, false, 1, 2⟩
  remain := 0

/-- Every channel as `INIT` programs it (R640, R650). -/
def programChannels (c : Config) : Channels where
  a := programA c
  b := programB c
  c := match c.mode with
    | .direct => .zero
    | .indexed => programC c
  d := match c.mode with
    | .direct => .zero
    | .indexed => programD c

/-- `trigger(A, LIVEBASE)`, then in indexed mode the re-arm of the C-D loop (R652). -/
def startChannels (s : State) : Except Refusal State :=
  match trigger .a s.regs.liveBase s with
  | .error r => .error r
  | .ok s1 =>
    match s.cfg.mode with
    | .direct => .ok s1
    | .indexed => trigger .c (addrPluOutf s.cfg) s1

end Sys2Proof.Machine
end

