-- ==== Sys2Proof/Machine/Palette.lean ====
section
/-! DEFINITION. PLU, the palette lookup unit (`43_palette_lookup.md` section 2). -/

namespace Sys2Proof.Machine

/-- `PLU_RESET` (R554). `PLU_EN` is not touched. -/
def Plu.reset (p : Plu) : Plu := { p with pli := [], plo := [], sr := 0, n := 0 }

/-- A load step is enabled (R552). -/
def pluLoadEnabled (s : State) : Bool :=
  decide (s.cfg.mode = .indexed) && s.plu.en && decide (s.plu.n = 0) && !s.plu.pli.isEmpty

/-- A lookup step is enabled (R553). -/
def pluLookupEnabled (s : State) : Bool :=
  decide (s.cfg.mode = .indexed) && s.plu.en && decide (s.plu.n ≠ 0) && !full s.cfg.ploDepth s.plu.plo

/-- A PLU step is enabled; while `PLU_EN = 0` none is (R551). -/
def pluEnabled (s : State) : Bool := pluLoadEnabled s || pluLookupEnabled s

/-- `PLU_LOAD` (R552). -/
def Plu.load (p : Plu) : Plu :=
  match p.pli with
  | [] => p
  | w :: q => { p with pli := q, sr := w, n := 4 }

/-- The address of the next index's palette entry (R553, `30_encoding.md` R334). -/
def Plu.nextAddr (c : Config) (p : Plu) : Word :=
  paletteAddr c (packedIndex p.sr (4 - p.n.toNat)).toNat

/-- `PLU_LOOKUP` (R553). -/
def Plu.lookup (c : Config) (p : Plu) : Plu :=
  { p with plo := push p.plo (p.nextAddr c), n := p.n - 1 }

/-- A PLU step: load when `PLU_N = 0`, else lookup. -/
def pluStep (s : State) : State :=
  { s with plu := if s.plu.n = 0 then s.plu.load else s.plu.lookup s.cfg }

end Sys2Proof.Machine
end

