-- ==== Sys2Proof/Machine/Dispatcher.lean ====
section
/-! DEFINITION. DISP, the end-of-line dispatcher (`45_dispatcher.md`): the block's one event handler. Taking
an event saves nothing and records no cause, the transition clears its flag, and there is no return
(`60_exceptions.md` R914, R915). -/

namespace Sys2Proof.Machine

/-- A DISP step is enabled (R700). -/
def dispEnabled (s : State) : Bool := s.regs.run && (framePending s || linePending s)

/-- The registers after the flag, the mailbox and the row of a frame transition (R710). -/
def Regs.takeFrame (r : Regs) : Regs :=
  { r with
    frameF := false
    liveBase := if r.pendValid then r.pendAddr else r.liveBase
    pendValid := false
    displayRow := 0 }

/-- The channels and engines of a frame transition, all at rest: the aborts, the pump's forced entry and,
in indexed mode, the PLU's reset (R710). -/
def frameQuiesce (s : State) : State :=
  let s1 := abort .b (abort .a s)
  let s2 := { s1 with pump := { s1.pump.forceEntry with en := true } }
  match s.cfg.mode with
  | .direct => s2
  | .indexed =>
    let s3 := abort .d (abort .c s2)
    { s3 with plu := s3.plu.reset }

/-- `FRAME_TRANSITION` (R710). -/
def frameTransition (s : State) : Except Refusal State :=
  let s1 := frameQuiesce { s with regs := s.regs.takeFrame }
  let s2 := { s1 with regs := { s1.regs with linePtr := s1.regs.liveBase } }
  match startChannels s2 with
  | .error r => .error r
  | .ok s3 => .ok { s3 with regs := { s3.regs with vsWait := false } }

/-- `display_row` after a line transition: one more, saturating at `HEIGHT` (R720). -/
def nextDisplayRow (c : Config) (r : BitVec 16) : BitVec 16 :=
  BitVec.ofNat 16 (min (r.toNat + 1) c.height)

/-- The row address a line transition publishes for `display_row = r`: the sentinel at `HEIGHT` (R720). -/
def rowPointer (c : Config) (live : Word) (r : Nat) : Word :=
  if r = c.height then 0 else offset live (c.stride * (r >>> c.rowShift.toNat))

/-- `LINE_TRANSITION` (R720). -/
def lineTransition (s : State) : State :=
  let r := nextDisplayRow s.cfg s.regs.displayRow
  { s with
    regs := { s.regs with
      lineF := false
      displayRow := r
      linePtr := rowPointer s.cfg s.regs.liveBase r.toNat } }

/-- `DISP_step` (R700): exactly one transition, the frame first. -/
def dispStep (s : State) : Except Refusal State :=
  if framePending s then frameTransition s else .ok (lineTransition s)

end Sys2Proof.Machine
end

