-- ==== Sys2Proof/Machine/Control.lean ====
section
/-! DEFINITION. The control, synchronisation, palette and backlight commands (`46_host_commands.md`
section 2), and `construct` (`70_reset_and_hazards.md` R1000). -/

namespace Sys2Proof.Machine

/-- `INIT` once the resources are there (R810). It writes `LINEPTR` as R810 says, which ends the back-off of a direct
`UPDATE` left by `TEARDOWN`, where `70_reset_and_hazards.md` R1034 says that it lasts until a later frame transition
(DEDUCED, log entry 25). -/
def initBlock (s : State) : Except Refusal State :=
  let s1 : State :=
    { s with
      dma := programChannels s.cfg
      tseq := { s.tseq with phase := 0, row := 0 }
      tgen := { s.tgen with tq := [], word := 0, remain := 0, en := false }
      pump := { s.pump.forceEntry with en := true }
      plu := match s.cfg.mode with
        | .direct => s.plu
        | .indexed => { s.plu.reset with en := true }
      regs := { s.regs with
        lineF := false
        frameF := false
        startF := false
        displayRow := 0
        linePtr := s.regs.liveBase } }
  match startChannels s1 with
  | .error r => .error r
  | .ok s2 =>
    .ok { s2 with
      regs := { s2.regs with lineE := true, frameE := true, run := true }
      tseq := { s2.tseq with en := true } }

/-- `INIT` (R810): refused while running; a draw of `RES_OK`; the fatal stop when it fails. -/
def execInit (s : State) : Host.Outcome State Fault Refusal :=
  if s.regs.run then .next (refuse .unsupported s)
  else match initBlock (drawn s) with
    | .error r => .refused r
    | .ok t => .next (if resOk s then t else fatalStop (drawn s))

/-- A channel aborted and disabled (R815). -/
def Channel.disabled (x : Channel) : Channel := { x.idle with ctrl := { x.idle.ctrl with en := false } }

/-- `TEARDOWN` (R815). -/
def execTeardown (s : State) : Host.Outcome State Fault Refusal :=
  .next
    { s with
      dma :=
        { a := s.dma.a.disabled
          b := s.dma.b.disabled
          c := if s.cfg.hasChan .c then s.dma.c.disabled else s.dma.c
          d := if s.cfg.hasChan .d then s.dma.d.disabled else s.dma.d }
      tseq := { s.tseq with en := false }
      tgen := { s.tgen with en := false, tq := [] }
      pump := { s.pump.forceEntry with en := false }
      plu := match s.cfg.mode with
        | .direct => { s.plu with en := false }
        | .indexed => { s.plu.reset with en := false }
      regs := { s.regs with lineE := false, frameE := false, run := false } }

/-- `SET_FRAMEBUFFER` (R820). -/
def execSetFramebuffer (base : Word) (s : State) : Host.Outcome State Fault Refusal :=
  if s.cfg.bufferOk base then
    .next { s with regs := { s.regs with pendAddr := base, pendValid := true } }
  else .next (refuse .argRange s)

/-- `WAIT_VSYNC`, step 1 (R830); step 2 is the producer's next step. -/
def execWaitVsync (s : State) : Host.Outcome State Fault Refusal :=
  .next (State.setCmd { s with regs := { s.regs with vsWait := true } } .waitVsync)

/-- Write the entry of colour `colour` at index `i` of the PaletteTable (R840, R873). -/
def writeEntry (i : Nat) (colour : Word) (s : State) : Except Refusal State :=
  producerStore s (paletteAddr s.cfg i) .word (encColour colour)

/-- `SET_PALETTE` (R840). -/
def execSetPalette (index colour : Word) (s : State) : Host.Outcome State Fault Refusal :=
  if s.cfg.mode ≠ .indexed then .next (refuse .unsupported s)
  else if 255 < index.toNat then .next (refuse .argRange s)
  else outcomeOf (writeEntry index.toNat colour s)

/-- `SET_BACKLIGHT` (R860). -/
def execSetBacklight (brightness : Word) (s : State) : Host.Outcome State Fault Refusal :=
  if 255 < brightness.toNat then .next (refuse .argRange s)
  else .next { s with regs := { s.regs with blDuty := backlightDuty s.cfg brightness.toNat } }

/-- A reserved command word (`30_encoding.md` R321). -/
def reservedCommand (s : State) : State := refuse .unsupported s

/-- `construct` (`70_reset_and_hazards.md` R1000, R1001): the state of the configuration, or the refusal of a
configuration that fails a check. -/
def construct (c : Config) : Host.Outcome State Fault Refusal :=
  if c.wf then .next (State.ofConfig c) else .refused .badConfiguration

end Sys2Proof.Machine
end

