-- ==== Sys2Proof/Machine/Update.lean ====
section
/-! DEFINITION. The producer updates (`46_host_commands.md` section 3): the first step of `UPDATE` and
`PARTIAL_UPDATE`, and the steps every multi-step command takes after it. -/

namespace Sys2Proof.Machine

/-- The pixel at byte offset `o` of layer `l` (R874). -/
def layerPixel (s : State) (src : Word) (l o : Nat) : Except Refusal Word :=
  producerLoad s (offset src (l * s.cfg.bufBytes + o)) (pixelSize s.cfg)

/-- `COMP(o)` over layers `l .. 0`, topmost first (R874). -/
def composite (s : State) (src : Word) (o : Nat) : Nat → Except Refusal Word
  | 0 => layerPixel s src 0 o
  | l + 1 =>
    match layerPixel s src (l + 1) o with
    | .error r => .error r
    | .ok v => if v ≠ 0 then .ok v else composite s src o l

/-- Store the composite of offset `o` at the destination (R872, R873). -/
def copyPixel (s : State) (src : Word) (layers : Nat) (dest : Word) (o : Nat) : Except Refusal State :=
  match composite s src o (layers - 1) with
  | .error r => .error r
  | .ok v => producerStore s (offset dest o) (pixelSize s.cfg) v

/-- `UPDATE`, its first step: the checks, then `U_START` (R872) in direct mode and `UI_SET` (R873) in indexed
mode (log entry 17). -/
def execUpdate (src layers pal : Word) (s : State) : Host.Outcome State Fault Refusal :=
  if updateArgsOk s.cfg src layers.toNat pal = false then .next (refuse .argRange s)
  else match s.cfg.mode with
    | .direct => .next (s.setCmd (.uRead src layers.toNat s.regs.liveBase 0))
    | .indexed =>
      .next (State.setCmd { s with regs := { s.regs with vsWait := true } } (.uiWait src layers.toNat pal))

/-- `PARTIAL_UPDATE`, its first step: the checks, and the destination (R880). -/
def execPartialUpdate (src layers : Word) (x y w h : BitVec 16) (s : State) :
    Host.Outcome State Fault Refusal :=
  if layers ≠ 1 then .next (refuse .unsupported s)
  else if sourceOk s.cfg src 1 = false then .next (refuse .argRange s)
  else if regionOk s.cfg x.toNat y.toNat w.toNat h.toNat = false then .next (refuse .argRange s)
  else if w = 0 ∨ h = 0 then .next s
  else
    .next (s.setCmd
      (.pCopy src s.regs.liveBase x.toNat y.toNat w.toNat h.toNat y.toNat x.toNat))

/-- The command state after `U_COPY` has moved the cursor to `cur` (R872). -/
def afterCopy (c : Config) (src : Word) (layers : Nat) (dest : Word) (cur re : Nat) : Cmd :=
  if cur = c.bufBytes then .idle
  else if re ≤ cur then .uRead src layers dest cur
  else .uCopy src layers dest cur re

/-- The command state after `P_COPY(yy, xx)` (R880): along the row, then to the next row. -/
def afterPartial (src dest : Word) (x y w h yy xx : Nat) : Cmd :=
  if xx + 1 < x + w then .pCopy src dest x y w h yy (xx + 1)
  else if yy + 1 < y + h then .pCopy src dest x y w h (yy + 1) x
  else .idle

/-- The offset of pixel `(xx, yy)` in a frame (R880, `10_state.md` R162). -/
def pixelOffset (c : Config) (xx yy : Nat) : Nat := yy * c.stride + xx * c.bpp

/-- A result followed by the producer's next command state. -/
def thenCmd (r : Except Refusal State) (c : Cmd) : Except Refusal State :=
  match r with
  | .error e => .error e
  | .ok s => .ok (s.setCmd c)

/-- `U_READ` (R872): one load of `LINEPTR`; a run up to the boundary, or a back-off. For how long after `TEARDOWN`
is log entry 25. -/
def stepURead (src : Word) (layers : Nat) (dest : Word) (cur : Nat) (s : State) : Except Refusal State :=
  let b := boundary s.cfg s.regs.linePtr dest
  if cur < b then .ok (s.setCmd (.uCopy src layers dest cur b))
  else .ok (s.setCmd (.uRead src layers dest cur))

/-- `U_COPY` (R872): one pixel. -/
def stepUCopy (src : Word) (layers : Nat) (dest : Word) (cur re : Nat) (s : State) : Except Refusal State :=
  thenCmd (copyPixel s src layers dest cur) (afterCopy s.cfg src layers dest (cur + 2) re)

/-- `UI_PAL(i)` (R873): `dest` is sampled at `i = 0`; one entry from the source palette. -/
def stepUiPal (src : Word) (layers : Nat) (pal dest : Word) (i : Nat) (s : State) : Except Refusal State :=
  let dest1 := if i = 0 then s.regs.liveBase else dest
  match producerLoad s (offset pal (4 * i)) .word with
  | .error r => .error r
  | .ok c =>
    thenCmd (writeEntry i c s)
      (if i + 1 < 256 then .uiPal src layers pal dest1 (i + 1) else .uiCopy src layers dest1 0)

/-- `UI_COPY(o)` (R873): one byte. -/
def stepUiCopy (src : Word) (layers : Nat) (dest : Word) (o : Nat) (s : State) : Except Refusal State :=
  thenCmd (copyPixel s src layers dest o)
    (if o + 1 < s.cfg.bufBytes then .uiCopy src layers dest (o + 1) else .idle)

/-- `P_COPY(yy, xx)` (R880): one pixel. -/
def stepPCopy (src dest : Word) (x y w h yy xx : Nat) (s : State) : Except Refusal State :=
  match producerLoad s (offset src (pixelOffset s.cfg xx yy)) (pixelSize s.cfg) with
  | .error r => .error r
  | .ok v =>
    thenCmd (producerStore s (offset dest (pixelOffset s.cfg xx yy)) (pixelSize s.cfg) v)
      (afterPartial src dest x y w h yy xx)

/-- The step a producer in the middle of a command takes (R800). The waits do nothing but end: they are
enabled only when `VSWAIT.WAITING = 0`. -/
def cmdStep (c : Cmd) (s : State) : Except Refusal State :=
  match c with
  | .idle => .ok s
  | .waitVsync => .ok (s.setCmd .idle)
  | .uRead src layers dest cur => stepURead src layers dest cur s
  | .uCopy src layers dest cur re => stepUCopy src layers dest cur re s
  | .uiWait src layers pal => .ok (s.setCmd (.uiPal src layers pal 0 0))
  | .uiPal src layers pal dest i => stepUiPal src layers pal dest i s
  | .uiCopy src layers dest o => stepUiCopy src layers dest o s
  | .pCopy src dest x y w h yy xx => stepPCopy src dest x y w h yy xx s

/-- The producer's next step in command state `c` is enabled (R800, R830, R873). -/
def cmdEnabled (c : Cmd) (s : State) : Bool :=
  match c with
  | .idle => false
  | .waitVsync => !s.regs.vsWait
  | .uRead _ _ _ _ => true
  | .uCopy _ _ _ _ _ => true
  | .uiWait _ _ _ => !s.regs.vsWait
  | .uiPal _ _ _ _ _ => true
  | .uiCopy _ _ _ _ => true
  | .pCopy _ _ _ _ _ _ _ _ => true

end Sys2Proof.Machine
end

