-- ==== Sys2Proof/Machine/Dispatch.lean ====
section
/-! DEFINITION. One arm per instruction: its meaning. For a timing word it is one tick with the word in
execution, for a host command the first step of the command by the producer `env.actor`. -/

namespace Sys2Proof.Machine

def exec (i : Instr) (s : State) : Host.Outcome State Fault Refusal :=
  match i with
  | .twNone count hs vs => Sys2Proof.Machine.execTwNone count hs vs s
  | .twLineReady count hs vs => Sys2Proof.Machine.execTwLineReady count hs vs s
  | .twNextLine count hs vs => Sys2Proof.Machine.execTwNextLine count hs vs s
  | .twFrameReady count hs vs => Sys2Proof.Machine.execTwFrameReady count hs vs s
  | .init => Sys2Proof.Machine.execInit s
  | .teardown => Sys2Proof.Machine.execTeardown s
  | .setFramebuffer base => Sys2Proof.Machine.execSetFramebuffer base s
  | .waitVsync => Sys2Proof.Machine.execWaitVsync s
  | .setPalette index colour => Sys2Proof.Machine.execSetPalette index colour s
  | .setBacklight brightness => Sys2Proof.Machine.execSetBacklight brightness s
  | .update src layers pal => Sys2Proof.Machine.execUpdate src layers pal s
  | .partialUpdate src layers x y w h => Sys2Proof.Machine.execPartialUpdate src layers x y w h s

end Sys2Proof.Machine
end

