-- ==== Sys2Proof/Machine/Sequencer.lean ====
section
/-! DEFINITION. TSEQ, the timing sequencer (`40_timing_sequencer.md`). -/

namespace Sys2Proof.Machine

/-- `PHASE_WORD(phase, r, vs)` (R401 to R404). -/
def phaseWord (c : Config) (phase : BitVec 2) (r : Nat) : Word :=
  let vs := vsyncLevel c r
  if phase = 0 then timingWord .none vs true (waitCount c.hFront)
  else if phase = 1 then timingWord .none vs false (waitCount c.hPulse)
  else if phase = 2 then timingWord (backPorchTrig c r) vs true (waitCount c.hBack)
  else timingWord (displayTrig c r) vs true (waitCount c.hDisplay)

/-- `timing_row` after the phase-3 word of line `r` (R404). -/
def nextRow (c : Config) (r : BitVec 16) : BitVec 16 :=
  if r.toNat + 1 = c.vFront then 0 else r + 1

/-- The sequencer's position after a word (R404, R405): the row changes only in phase 3. -/
def Tseq.advance (c : Config) (t : Tseq) : Tseq :=
  { t with
    phase := t.phase + 1
    row := if t.phase = 3 then nextRow c t.row else t.row }

/-- The word TSEQ computes in its current position (R400). -/
def Tseq.word (c : Config) (t : Tseq) : Word := phaseWord c t.phase t.row.toNat

/-- A TSEQ step is enabled (R400). -/
def tseqEnabled (s : State) : Bool := s.tseq.en && !full s.cfg.tqDepth s.tgen.tq

/-- A TSEQ step (R400). -/
def tseqStep (s : State) : State :=
  { s with
    tgen := { s.tgen with tq := push s.tgen.tq (s.tseq.word s.cfg) }
    tseq := s.tseq.advance s.cfg }

end Sys2Proof.Machine
end

