-- ==== Sys2Proof/Machine/Schedule.lean ====
section
/-! DEFINITION. The agents' steps (`00_scope.md` R9) and the choice of the agent that moves: the fetch of a
timing word by the tick, the fetch of a request by a producer, and the schedule. -/

namespace Sys2Proof.Machine

/-- Run the instruction read from a timing word; a reserved one has no meaning (`30_encoding.md` R303). -/
def runTiming (w : Word) (s : State) : Host.Outcome State Fault Refusal :=
  match decode (.timing w) with
  | .ok i => exec i s
  | .error _ => .refused .reservedTimingWord

/-- The tick (`41_timing_generator.md` R450): with no word in execution the next one is popped from `TQ`
(R451) or TGEN stalls (R454); then one cycle of the word runs. -/
def tickStep (s : State) : Host.Outcome State Fault Refusal :=
  if s.tgen.remain = 0 then
    match s.tgen.tq with
    | [] => .next (stallTick s)
    | w :: q => runTiming w { s with tgen := { s.tgen with tq := q } }
  else runTiming s.tgen.word s

/-- Issue a request as the producer `env.actor`: run the decoded command's first step, or refuse a reserved
command word (`30_encoding.md` R321), or make the access (`20_memory.md` R201, R205). -/
def issue (r : Request) (p : Producer) (s : State) : Host.Outcome State Fault Refusal :=
  match r with
  | .command c =>
    match decode (.command c) with
    | .ok i => exec i s
    | .error _ => .next (reservedCommand s)
  | .load a z =>
    match producerLoad s a z with
    | .error e => .refused e
    | .ok v => .next (s.setProducer s.env.actor { p with loaded := v })
  | .store a z v => outcomeOf (producerStore s a z v)

/-- The producer's next step is enabled (`46_host_commands.md` R800). -/
def producerEnabled (n : Nat) (s : State) : Bool :=
  match s.producers[n]? with
  | none => false
  | some p => if p.cmd = .idle then !p.queue.isEmpty else cmdEnabled p.cmd s

/-- Note which producer's step is being taken. -/
def State.withActor (s : State) (n : Nat) : State := { s with env := { s.env with actor := n } }

/-- A step of producer `n` (R800): from `IDLE` it issues its next request, in a command it takes the
command's next step. -/
def producerStep (n : Nat) (s : State) : Host.Outcome State Fault Refusal :=
  match s.producers[n]? with
  | none => .next s
  | some p =>
    match p.cmd with
    | .idle =>
      match p.queue with
      | [] => .next s
      | r :: q =>
        let p1 := { p with queue := q }
        issue r p1 ((s.withActor n).setProducer n p1)
    | c => outcomeOf (cmdStep c (s.withActor n))

/-- The agent's step is enabled. -/
def enabled (a : Agent) (s : State) : Bool :=
  match a with
  | .tseq => tseqEnabled s
  | .tgenStart => tgenStartEnabled s
  | .tick => s.tgen.en
  | .plu => pluEnabled s
  | .dma n => dmaEnabled n s
  | .disp => dispEnabled s
  | .producer n => producerEnabled n s

/-- The agent's step, when it is enabled. -/
def runAgent (a : Agent) (s : State) : Host.Outcome State Fault Refusal :=
  match a with
  | .tseq => .next (tseqStep s)
  | .tgenStart => .next (tgenStartStep s)
  | .tick => tickStep s
  | .plu => .next (pluStep s)
  | .dma n => outcomeOf (dmaStep n s)
  | .disp => outcomeOf (dispStep s)
  | .producer n => producerStep n s

/-- The agent's turn: its step if that is enabled, else nothing happens (log entry 2). -/
def agentTurn (a : Agent) (s : State) : Host.Outcome State Fault Refusal :=
  if enabled a s then runAgent a s else .next s

/-- The agents of the block other than the tick: those whose steps the real-time premise puts before it
(`70_reset_and_hazards.md` R1020). -/
def blockAgents : List Agent :=
  [.tseq, .tgenStart, .plu, .dma .a, .dma .b, .dma .c, .dma .d, .disp]

/-- The first agent of the block, other than the tick, with an enabled step. -/
def firstEnabled (s : State) : Option Agent := blockAgents.find? (fun a => enabled a s)

/-- The agent whose turn it is: the run's own list's next, else a free choice. -/
def named (s : State) : Agent :=
  match s.env.sched with
  | [] => Config.freeAgent s.env.turn
  | a :: _ => a

/-- The agent that moves in place of the tick: under the real-time premise no tick is taken while an agent of the
block has an enabled step (R1020). Nothing else is put off, a producer's turn neither (log entry 20). -/
def beforeTick (s : State) : Option Agent :=
  if s.env.policy = .premise ∧ named s = .tick then firstEnabled s else none

/-- The agent that moves. -/
def chosen (s : State) : Agent :=
  match beforeTick s with
  | some a => a
  | none => named s

/-- The state with the turn taken from the schedule. A tick that was put off keeps its place there. -/
def takeTurn (s : State) : State :=
  { s with env := { s.env with
      sched := if (beforeTick s).isSome then s.env.sched else s.env.sched.tail
      turn := s.env.turn + 1 } }

/-- One step of the machine: nothing more after a fatal stop (`60_exceptions.md` R903), else the turn of the
agent the schedule names. -/
def nextStep (s : State) : Host.Outcome State Fault Refusal :=
  if isStopped s then .fault .fatalStop else agentTurn (chosen s) (takeTurn s)

/-- The timing word stands at the head of `TQ` with TGEN about to fetch it. -/
def placeTiming (w : Word) (s : State) : State :=
  { s with tgen := { s.tgen with en := true, remain := 0, tq := w :: s.tgen.tq.tail } }

/-- The command is the next request of producer 0, which is `IDLE`. -/
def placeCommand (c : Command) (s : State) : State :=
  match s.producers with
  | [] => { s with producers := [{ Producer.zero with queue := [.command c] }] }
  | p :: ps => { s with producers := { p with cmd := .idle, queue := .command c :: p.queue } :: ps }

/-- The packet's agent has the next turn, and no fatal stop stands in the way. -/
def turnFor (a : Agent) (s : State) : State :=
  { s with
    regs := { s.regs with status := s.regs.status &&& 0x7fe }
    env := { s.env with policy := .free, sched := a :: s.env.sched } }

/-- The packet stands where the next step fetches it. -/
def place (p : Packet) (s : State) : State :=
  match p with
  | .timing w => turnFor .tick (placeTiming w s)
  | .command c => turnFor (.producer 0) (placeCommand c s)

end Sys2Proof.Machine
end

