-- ==== Sys2Proof/Machine/Step.lean ====
section
/-! DEFINITION. The step, and the placing of an instruction where the next step fetches it. -/

namespace Sys2Proof.Machine

/-- One step of the machine. -/
def step (s : State) : Host.Outcome State Fault Refusal := nextStep s

/-- The state with the instruction of a table row's bits where the next step fetches it (log entry 1). -/
def State.withFetchWord (s : State) (nbits w : Nat) : State := place (tablePacket nbits w) s

end Sys2Proof.Machine
end

