-- ==== Sys2Proof/Safety.lean ====
section
/-! DEFINITION. What counts as a legal state, in the terms the claims use: one predicate for each part of the
machine, all decidable, and the helpers the claims about several steps need. -/

namespace Sys2Proof.Safety

open Sys2Proof.Machine

/-- Memory is in its canonical form. -/
abbrev MemoryCanonical (s : State) : Prop := Memory.wf s.mem = true

/-- No FIFO holds more words than its depth (`10_state.md` R161). -/
abbrev QueuesBounded (s : State) : Prop :=
  s.tgen.tq.length ≤ s.cfg.tqDepth ∧ s.pump.pf.length ≤ s.cfg.pfDepth ∧
  s.plu.pli.length ≤ s.cfg.pliDepth ∧ s.plu.plo.length ≤ s.cfg.ploDepth

/-- The timing state is legal: `timing_row` in `0 .. V_FRONT-1` (`10_state.md` R102), no word with a reserved
bit in `TQ` or `TG_WORD` (`30_encoding.md` R303), and `TG_REMAIN` at most `0xFFFF + 3` (`10_state.md`
R101). -/
abbrev TimingLegal (s : State) : Prop :=
  s.cfg.wf = true ∧ s.tseq.row.toNat < s.cfg.vFront ∧ s.tgen.tq.all timingWordOk = true ∧
  timingWordOk s.tgen.word = true ∧ s.tgen.remain.toNat ≤ 0xFFFF + 3

/-- The scan registers are legal: `display_row` in `0 .. HEIGHT` (`10_state.md` R138), `LINEPTR` the sentinel
or the address the published row has (R134, `45_dispatcher.md` R720), and the live and pending buffers where
a buffer may stand (`20_memory.md` R201). -/
abbrev ScanLegal (s : State) : Prop :=
  s.cfg.wf = true ∧ s.regs.displayRow.toNat ≤ s.cfg.height ∧
  (s.regs.linePtr = 0 ∨
    s.regs.linePtr = rowPointer s.cfg s.regs.liveBase s.regs.displayRow.toNat) ∧
  s.cfg.bufferOk s.regs.liveBase = true ∧
  (s.regs.pendValid = true → s.cfg.bufferOk s.regs.pendAddr = true)

/-- The pump is legal: `PUMP_LEFT` at most `WIDTH`, nonzero exactly while shifting (`10_state.md` R104,
`42_pixel_pump.md` R505), and a half word held exactly before an odd pixel of a direct line (R507). -/
abbrev PumpLegal (s : State) : Prop :=
  s.cfg.wf = true ∧ s.pump.left.toNat ≤ s.cfg.width ∧ (s.pump.st = .shift ↔ s.pump.left ≠ 0) ∧
  (s.cfg.mode = .direct → (s.pump.hv = true ↔ s.pump.left.toNat % 2 = 1)) ∧
  (s.cfg.mode = .indexed → s.pump.hv = false)

/-- The backlight duty is at most `PWM_TOP` (`10_state.md` R140). -/
abbrev BacklightLegal (s : State) : Prop :=
  s.cfg.wf = true ∧ s.regs.blDuty.toNat ≤ s.cfg.pwmTop.toNat

/-- The engines are enabled together, between `INIT` and `TEARDOWN` (`46_host_commands.md` R810, R815), and
there is no PLU in direct mode (`10_state.md` R105). -/
abbrev EnginesLegal (s : State) : Prop :=
  s.tseq.en = s.regs.run ∧ s.pump.en = s.regs.run ∧ s.regs.lineE = s.regs.run ∧
  s.regs.frameE = s.regs.run ∧ (s.tgen.en = true → s.regs.run = true) ∧
  s.plu.en = (s.regs.run && decide (s.cfg.mode = .indexed)) ∧ s.plu.n.toNat ≤ 4 ∧
  (s.cfg.mode = .direct → s.plu = ⟨false, 0, 0, [], []⟩)

/-- The parts of a channel that `INIT` programs and no run changes: `WRITE_ADDR`, `TRANS_COUNT`, and `CTRL`
but for `EN` and `BUSY`. -/
abbrev Programmed (x p : Channel) : Prop :=
  x.writeAddr = p.writeAddr ∧ x.transCount = p.transCount ∧
  { x.ctrl with en := true, busy := false } = p.ctrl

/-- The channel is as it was at reset, or as `INIT` programmed it with `EN = CTRL.RUN` (`44_dma_chain.md`
R640, R650, `46_host_commands.md` R815). -/
abbrev ChannelLegal (run : Bool) (x p : Channel) : Prop :=
  (x = .zero ∧ run = false) ∨ (Programmed x p ∧ x.ctrl.en = run)

/-- A run in progress has transfers to go, and only then is `REMAIN` nonzero (R610, R614, R615). -/
abbrev RunLegal (x : Channel) : Prop :=
  (x.ctrl.busy = true ↔ x.remain ≠ 0) ∧ (x.ctrl.busy = true → x.ctrl.en = true)

/-- A channel that reads a fixed register reads that one (R640, R650). -/
abbrev ReadsFrom (x : Channel) (a : Word) : Prop := x = .zero ∨ x.readAddr = a

/-- `n` words from `a`, word-aligned, lie in RAM. -/
abbrev WordsInRam (c : Config) (a : Word) (n : Nat) : Prop :=
  a.toNat % 4 = 0 ∧ c.inRam a (4 * n) = true

/-- Every channel is programmed or at reset, and C and D are at reset in direct mode. -/
abbrev ChannelsProgrammed (s : State) : Prop :=
  ChannelLegal s.regs.run s.dma.a (programA s.cfg) ∧ ChannelLegal s.regs.run s.dma.b (programB s.cfg) ∧
  (s.cfg.mode = .indexed → ChannelLegal s.regs.run s.dma.c (programC s.cfg)) ∧
  (s.cfg.mode = .indexed → ChannelLegal s.regs.run s.dma.d (programD s.cfg)) ∧
  (s.cfg.mode = .direct → s.dma.c = .zero ∧ s.dma.d = .zero) ∧
  ReadsFrom s.dma.b (addrLinePtr s.cfg) ∧ ReadsFrom s.dma.c (addrPluOutf s.cfg)

/-- Every channel's run is legal, the one-word channels have at most one transfer to go, and A and B, and C
and D, never both run (the chains hand a run over). -/
abbrev RunsLegal (s : State) : Prop :=
  RunLegal s.dma.a ∧ RunLegal s.dma.b ∧ RunLegal s.dma.c ∧ RunLegal s.dma.d ∧
  s.dma.b.remain.toNat ≤ 1 ∧ s.dma.c.remain.toNat ≤ 1 ∧ s.dma.d.remain.toNat ≤ 1 ∧
  ¬(s.dma.a.ctrl.busy = true ∧ s.dma.b.ctrl.busy = true) ∧
  ¬(s.dma.c.ctrl.busy = true ∧ s.dma.d.ctrl.busy = true)

/-- Every address a running channel will load from RAM is there: the words of A's run, D's entry, and the
entries C will hand to D. -/
abbrev AddressesLegal (s : State) : Prop :=
  (s.dma.a.ctrl.busy = true → WordsInRam s.cfg s.dma.a.readAddr s.dma.a.remain.toNat) ∧
  (s.dma.d.ctrl.busy = true → WordsInRam s.cfg s.dma.d.readAddr 1) ∧
  s.plu.plo.all (fun w => decide (WordsInRam s.cfg w 1)) = true

/-- The DMA chain is legal. -/
structure ChainLegal (s : State) : Prop where
  programmed : ChannelsProgrammed s
  runs : RunsLegal s
  addresses : AddressesLegal s

/-- A producer's local variables are legal: every pixel, source and palette address its next step uses lies
in RAM, and a copying `UPDATE` is below its run end (`46_host_commands.md` R870 to R880). -/
def CmdLegal (c : Config) (x : Cmd) : Prop :=
  match x with
  | .idle => True
  | .waitVsync => True
  | .uRead src n dest cur =>
    c.mode = .direct ∧ n ≠ 0 ∧ sourceOk c src n = true ∧ c.bufferOk dest = true ∧ cur % 2 = 0 ∧
      cur < c.bufBytes
  | .uCopy src n dest cur re =>
    c.mode = .direct ∧ n ≠ 0 ∧ sourceOk c src n = true ∧ c.bufferOk dest = true ∧ cur % 2 = 0 ∧
      cur < re ∧ re ≤ c.bufBytes
  | .uiWait src n pal =>
    c.mode = .indexed ∧ n ≠ 0 ∧ sourceOk c src n = true ∧ sourcePaletteOk c pal = true
  | .uiPal src n pal dest i =>
    c.mode = .indexed ∧ n ≠ 0 ∧ sourceOk c src n = true ∧ sourcePaletteOk c pal = true ∧ i < 256 ∧
      (i ≠ 0 → c.bufferOk dest = true)
  | .uiCopy src n dest o =>
    c.mode = .indexed ∧ n ≠ 0 ∧ sourceOk c src n = true ∧ c.bufferOk dest = true ∧ o < c.bufBytes
  | .pCopy src dest x y w h yy xx =>
    sourceOk c src 1 = true ∧ c.bufferOk dest = true ∧ regionOk c x y w h = true ∧ y ≤ yy ∧ yy < y + h ∧
      x ≤ xx ∧ xx < x + w

/-- Every producer's local variables are legal. -/
def ProducersLegal (s : State) : Prop := ∀ p ∈ s.producers, CmdLegal s.cfg p.cmd

/-- The whole state is legal. -/
structure Legal (s : State) : Prop where
  memory : MemoryCanonical s
  queues : QueuesBounded s
  timing : TimingLegal s
  scan : ScanLegal s
  pump : PumpLegal s
  backlight : BacklightLegal s
  engines : EnginesLegal s
  chain : ChainLegal s
  producers : ProducersLegal s

/-- The `STATUS` bits the DMA chain can raise: `DMA_RETRIGGER`, `FIFO_OVERFLOW`, `BUS_ERROR`. -/
def dmaFaults (s : State) : BitVec 11 := s.regs.status &&& 0x700

/-- The reasons a producer's own access is refused (`60_exceptions.md` R902). -/
def accessRefusals : List Refusal :=
  [.misalignedAccess, .unmappedAccess, .narrowWindowAccess, .windowStore]

/-- The producer in command state `c`. -/
def withCmd (p : Producer) (c : Cmd) : Producer := { p with cmd := c }

/-- Every byte of memory reads as before. -/
def SameBytes (s t : State) : Prop := ∀ a, Memory.read t.mem a = Memory.read s.mem a

/-- Every byte of memory outside the `n` bytes from `a` reads as before. -/
def SameBytesBut (s t : State) (a : Word) (n : Nat) : Prop :=
  ∀ b, ¬(a.toNat ≤ b ∧ b < a.toNat + n) → Memory.read t.mem b = Memory.read s.mem b

/-- The words `n` successive sequencer steps push, oldest first, and where they leave the sequencer
(`40_timing_sequencer.md` R400). -/
def sequence (c : Config) : Nat → Tseq → List Word × Tseq
  | 0, t => ([], t)
  | n + 1, t =>
    let r := sequence c n (t.advance c)
    (t.word c :: r.1, r.2)

/-- How many words of a list carry the trigger. -/
def countTrig (t : Trig) (ws : List Word) : Nat := (ws.filter (fun w => decide (wordTrig w = t))).length

/-- The pixel at byte offset `o` of layer `l` of a source (`46_host_commands.md` R870, R874). -/
def layerAt (s : State) (src : Word) (l o : Nat) : Word :=
  memRead s.mem (src + BitVec.ofNat 32 (l * s.cfg.bufBytes + o)) (pixelSize s.cfg)

/-- `v` is the pixel at offset `o` of the topmost of `n` layers whose pixel there is not zero, or of the bottom layer
when all above it are zero (R874). -/
def IsComposite (s : State) (src : Word) (o n : Nat) (v : Word) : Prop :=
  ∃ l, l < n ∧ v = layerAt s src l o ∧ (∀ m, l < m → m < n → layerAt s src m o = 0) ∧ (l ≠ 0 → v ≠ 0)

/-- How many of `ARG0 .. ARG3` a host command uses (`30_encoding.md` R320). -/
def argCount : Instr → Nat
  | .twNone _ _ _ => 0
  | .twLineReady _ _ _ => 0
  | .twNextLine _ _ _ => 0
  | .twFrameReady _ _ _ => 0
  | .init => 0
  | .teardown => 0
  | .setFramebuffer _ => 1
  | .waitVsync => 0
  | .setPalette _ _ => 2
  | .setBacklight _ => 1
  | .update _ _ _ => 3
  | .partialUpdate _ _ _ _ _ _ => 4

/-- `n` successive ticks with the same instruction. -/
def execTimes (i : Instr) : Nat → State → Option State
  | 0, s => some s
  | n + 1, s =>
    match exec i s with
    | .next t => execTimes i n t
    | .fault _ => none
    | .refused _ => none

end Sys2Proof.Safety
end

