-- ==== Sys2Proof/Certificates/Slice0/Obligations.lean ====
section
/-! DEFINITION. The statements for the provers. Each docstring names the rule of spec/ it formalises. -/

open Sys2Proof Sys2Proof.Machine Sys2Proof.Safety

/-! ## Reset and construct -/

/-- `10_state.md` R180, for every configuration: what `construct` leaves. `HS`, `VS`, `PIX` and the memory are
unspecified there, and nothing is said of them. -/
def Obligations.ConstructLeavesTheResetValues : Prop :=
  ∀ c : Config,
    let s := State.ofConfig c
    (c.wf = true → construct c = .next s) ∧ s.cfg = c ∧
    s.regs.run = false ∧
    ((ctrlWord s).getLsbD 0 = false ∧ (ctrlWord s).getLsbD 1 = decide (c.mode = .indexed) ∧
      (ctrlWord s).getLsbD 2 = c.rowShift ∧ (ctrlWord s).getLsbD 3 = decide (c.rotation = 180) ∧
      ctrlWord s >>> 4 = 0) ∧
    s.regs.status = (if c.rotation = 0 ∨ c.rotation = 180 then 0 else Code.unsupported.mask) ∧
    intfWord s = 0 ∧ inteWord s = 0 ∧ s.regs.linePtr = 0 ∧ s.regs.liveBase = c.fb0 ∧
    s.regs.pendAddr = 0 ∧ pendvWord s = 0 ∧ tposWord s = 0 ∧ drowWord s = 0 ∧ vswaitWord s = 0 ∧
    s.regs.blDuty = 0 ∧
    s.tseq.en = false ∧ s.tgen.en = false ∧ s.pump.en = false ∧ s.plu.en = false ∧
    s.tgen.word = 0 ∧ s.tgen.remain = 0 ∧
    s.pump.st = .waitStart ∧ s.pump.left = 0 ∧ s.pump.hv = false ∧ s.pump.hi = 0 ∧
    s.plu.sr = 0 ∧ s.plu.n = 0 ∧
    s.tgen.tq = [] ∧ s.pump.pf = [] ∧ s.plu.pli = [] ∧ s.plu.plo = [] ∧
    (∀ n, (s.chan n).readAddr = 0 ∧ (s.chan n).writeAddr = 0 ∧ (s.chan n).transCount = 0 ∧
      (s.chan n).ctrl.toWord = 0 ∧ (s.chan n).remain = 0) ∧
    s.producers.length = c.nprod ∧ (∀ p ∈ s.producers, p.cmd = .idle)

/-- `70_reset_and_hazards.md` R1002: after `construct` no agent of the block has an enabled step, so a turn of one
changes nothing. That no producer has one either is the model's choice: requests stand in a queue that starts
empty (log entries 1 and 11). -/
def Obligations.NothingMovesAfterConstruct : Prop :=
  ∀ (c : Config) (a : Agent),
    enabled a (State.ofConfig c) = false ∧ agentTurn a (State.ofConfig c) = .next (State.ofConfig c)

/-- `00_scope.md` R2: a configuration outside the bounds is refused; one inside with an unsupported rotation
is constructed with the warning of `60_exceptions.md` R905. The other checks of `70_reset_and_hazards.md` R1001
refuse likewise: the vertical parameters (R3), the phase lengths and `PWM_TOP` (R4), `FB0`, and in indexed mode
`PALETTE_BASE`. -/
def Obligations.BadGeometryIsRefused : Prop :=
  ∀ c : Config,
    (¬(4 ≤ c.width ∧ (c.mode = .direct → c.width % 2 = 0) ∧ (c.mode = .indexed → c.width % 4 = 0) ∧
        1 ≤ c.height ∧ (c.rowShift = true → c.height % 2 = 0)) →
      construct c = .refused .badConfiguration) ∧
    (¬(1 ≤ c.vpLines ∧ 1 ≤ c.vpLines + c.vbpLines ∧ 1 ≤ c.vfpLines) →
      construct c = .refused .badConfiguration) ∧
    (¬((∀ h ∈ [c.hFront, c.hPulse, c.hBack, c.hDisplay], 3 ≤ h ∧ h ≤ 0xFFFF + 3) ∧ c.width ≤ c.hDisplay ∧
        940 ≤ c.pwmTop.toNat) →
      construct c = .refused .badConfiguration) ∧
    (¬(c.fb0.toNat % 4 = 0 ∧ c.ramBase.toNat ≤ c.fb0.toNat ∧
        c.fb0.toNat + c.bufBytes ≤ c.ramBase.toNat + c.ramSize) →
      construct c = .refused .badConfiguration) ∧
    (c.mode = .indexed →
      ¬(c.paletteBase.toNat % 1024 = 0 ∧ c.ramBase.toNat ≤ c.paletteBase.toNat ∧
        c.paletteBase.toNat + 0x400 ≤ c.ramBase.toNat + c.ramSize) →
      construct c = .refused .badConfiguration) ∧
    (c.wf = true → c.rotation ≠ 0 → c.rotation ≠ 180 →
      ∃ s, construct c = .next s ∧ s.regs.status = Code.unsupported.mask ∧
        (ctrlWord s).getLsbD 3 = false ∧
        { s with cfg := { s.cfg with rotation := 0 }, regs := { s.regs with status := 0 } } =
          State.ofConfig { c with rotation := 0 })

/-! ## Encoding -/

/-- Decode and encode agree on every instruction (`30_encoding.md` R300, R304, R320). -/
def Obligations.DecodeOfEncode : Prop := ∀ i : Instr, decode (encode i) = .ok i

/-- The decoder drops no bit and accepts no reserved word (`30_encoding.md` R304, R320, R321). A timing word or a
command word that decodes is the one its instruction encodes to, and so is every argument the command uses; the
others are ignored, and encoded as 0. Exactly the timing words with a bit of 31:20 set, and exactly the command
words other than `0x01 .. 0x08`, are rejected. -/
def Obligations.EncodeOfDecode : Prop :=
  (∀ w i, decode (.timing w) = .ok i → encode i = .timing w) ∧
  (∀ c i, decode (.command c) = .ok i → encode i = .command
    { word := c.word
      arg0 := if 1 ≤ argCount i then c.arg0 else 0
      arg1 := if 2 ≤ argCount i then c.arg1 else 0
      arg2 := if 3 ≤ argCount i then c.arg2 else 0
      arg3 := if 4 ≤ argCount i then c.arg3 else 0 }) ∧
  (∀ w : Word, decode (.timing w) = .error .reservedTimingWord ↔ 2 ^ 20 ≤ w.toNat) ∧
  (∀ c : Command, decode (.command c) = .error .reservedCommandWord ↔ ¬(1 ≤ c.word.toNat ∧ c.word.toNat ≤ 8))

/-- Words written out from the spec's encodings decode to what they stand for (`95_test_vectors.md` 3.1.1,
3.7.1). -/
def Obligations.SpecWordsDecode : Prop :=
  decode (.timing 0x00010001) = .ok (.twNone 1 true false) ∧
  decode (.timing 0x00070003) = .ok (.twLineReady 3 true true) ∧
  decode (.timing 0x000B0005) = .ok (.twNextLine 5 true true) ∧
  decode (.timing 0x000FFFFF) = .ok (.twFrameReady 0xFFFF true true) ∧
  decode (.timing 0x00100000) = .error .reservedTimingWord ∧
  decode (.command ⟨0x00000005, 3, 0x00FF0000, 0, 0⟩) = .ok (.setPalette 3 0x00FF0000) ∧
  decode (.command ⟨0x00000008, 0x20004000, 1, 0x00010002, 0x00010002⟩) =
    .ok (.partialUpdate 0x20004000 1 2 1 2 1) ∧
  decode (.command ⟨0x00000101, 0, 0, 0, 0⟩) = .error .reservedCommandWord

/-! ## The step runs what it fetches -/

/-- When a producer's turn comes and it is `IDLE`, the step issues its next request (`46_host_commands.md` R800),
which is used up, with the turn taken and the producer noted. A command that decodes to `i` runs as `exec i`. A load
(`20_memory.md` R201, R205) keeps the value loaded and changes nothing else; a store changes memory as
`producerStore` does, and nothing else; an access that is refused is refused. What the two accesses do is
`ProducerAccesses` and `RegisterWindowReads`. That requests stand in a queue, plain accesses among them, is log
entries 1 and 24. -/
def Obligations.StepRunsTheCommand : Prop :=
  ∀ (s : State) (n : Nat) (p : Producer) (q : List Request),
    isStopped s = false → chosen s = .producer n → s.producers[n]? = some p → p.cmd = .idle →
    let issued := ((takeTurn s).withActor n).setProducer n { p with queue := q }
    (∀ c i, p.queue = .command c :: q → decode (.command c) = .ok i → step s = exec i issued) ∧
    (∀ a z, p.queue = .load a z :: q →
      (∀ v, producerLoad s a z = .ok v →
        step s = .next { issued with producers := s.producers.set n { p with queue := q, loaded := v } }) ∧
      (∀ r, producerLoad s a z = .error r → step s = .refused r)) ∧
    (∀ a z v, p.queue = .store a z v :: q →
      (∀ t, producerStore s a z v = .ok t → step s = .next { issued with mem := t.mem }) ∧
      (∀ r, producerStore s a z v = .error r → step s = .refused r))

/-- When the tick's turn comes and TGEN is enabled, the step is `exec i` for the word at the head of `TQ`,
popped, when no word is in execution (`41_timing_generator.md` R451), and for `TG_WORD` when one is; a word
with a reserved bit is refused (`30_encoding.md` R303). Under the real-time premise its turn comes only when no
other agent of the block has an enabled step, and every other agent's turn comes when the schedule says, a
producer's too (`70_reset_and_hazards.md` R1020). A step of a machine that has not stopped is the turn of the agent
chosen, whichever it is. That `exec` of a timing word is one tick is log entry 12, the schedule log entries 2 and
20. -/
def Obligations.StepRunsTheTimingWord : Prop :=
  (∀ (s : State), isStopped s = false → chosen s = .tick → s.tgen.en = true →
    (∀ w q i, s.tgen.remain = 0 → s.tgen.tq = w :: q → decode (.timing w) = .ok i →
      step s = exec i { takeTurn s with tgen := { s.tgen with tq := q } }) ∧
    (∀ i, s.tgen.remain ≠ 0 → decode (.timing s.tgen.word) = .ok i → step s = exec i (takeTurn s)) ∧
    (∀ w q, s.tgen.remain = 0 → s.tgen.tq = w :: q → 2 ^ 20 ≤ w.toNat →
      step s = .refused .reservedTimingWord)) ∧
  (∀ s : State, s.env.policy = .premise → chosen s = .tick →
    ∀ a, a ≠ .tick → (∀ n, a ≠ .producer n) → enabled a s = false) ∧
  (∀ (s : State) (a : Agent) (q : List Agent), s.env.sched = a :: q → (a ≠ .tick ∨ s.env.policy = .free) →
    chosen s = a ∧ (takeTurn s).env.sched = q) ∧
  (∀ s : State, isStopped s = false → step s = agentTurn (chosen s) (takeTurn s))

/-- `30_encoding.md` R321: a reserved command word sets `STATUS.UNSUPPORTED` and does nothing else. -/
def Obligations.ReservedCommandOnlySetsUnsupported : Prop :=
  ∀ (s : State) (n : Nat) (p : Producer) (c : Command) (q : List Request),
    s.producers[n]? = some p → p.cmd = .idle → p.queue = .command c :: q →
    (c.word.toNat = 0 ∨ 9 ≤ c.word.toNat) →
    agentTurn (.producer n) s =
      .next { s with
        regs := { s.regs with status := s.regs.status ||| Code.unsupported.mask }
        producers := s.producers.set n { p with queue := q }
        env := { s.env with actor := n } }

/-- `60_exceptions.md` R903: an `INIT` that finds a resource unavailable leaves every piece of state as before
but for `STATUS.INIT_FAIL` (the draw is the run's, not the block's), and then no agent takes another step. That
the `INIT_FAIL` bit marks the end of the run is log entry 19. -/
def Obligations.FatalStopEndsTheRun : Prop :=
  (∀ s : State, s.cfg.wf = true → s.regs.run = false → resOk s = false →
    ∃ t, exec .init s = .next t ∧ t.regs.status.getLsbD 0 = true ∧
      t = { s with
        regs := { s.regs with status := s.regs.status ||| Code.initFail.mask }
        env := { s.env with draws := s.env.draws.tail, drawn := s.env.drawn + 1 } }) ∧
  (∀ s : State, s.regs.status.getLsbD 0 = true → step s = .fault .fatalStop)

/-! ## Timing words and the tick -/

/-- One tick with each of the four timing words (`41_timing_generator.md` R450 to R453, R455, R456), the word
beginning or being the one in execution: it always completes. A word that begins is loaded with its cycles to go;
`HS` and `VS` take the word's levels; `TG_REMAIN` counts down; in the last cycle, and only then, the trigger's
flag is set, with its `*_LOST` code if it still was; the pump runs; the outputs are traced. Nothing else
changes. -/
def Obligations.TimingWordTick : Prop :=
  ∀ (tr : Trig) (count : BitVec 16) (hs vs : Bool) (s : State),
    (s.tgen.remain ≠ 0 → s.tgen.word = timingWord tr vs hs count) →
    let before := if s.tgen.remain = 0 then BitVec.ofNat 17 (count.toNat + 3) else s.tgen.remain
    let last := decide (before = 1)
    let p := pumpCycle s.regs.startF s
    ∃ t, exec (Instr.ofTiming tr count hs vs) s = .next t ∧
      t.tgen =
        { en := s.tgen.en
          word := timingWord tr vs hs count
          remain := before - 1
          hs := hs
          vs := vs
          tq := s.tgen.tq } ∧
      t.pump = p.pump ∧
      t.regs = { s.regs with
        startF := p.regs.startF || (last && decide (tr = .lineReady))
        lineF := s.regs.lineF || (last && decide (tr = .nextLine))
        frameF := s.regs.frameF || (last && decide (tr = .frameReady))
        status := p.regs.status |||
          (if last then
            match tr with
            | .none => 0
            | .lineReady => if p.regs.startF then Code.startLost.mask else 0
            | .nextLine => if s.regs.lineF then Code.lineLost.mask else 0
            | .frameReady => if s.regs.frameF then Code.frameLost.mask else 0
          else 0) } ∧
      t.env = { s.env with
        trace := ⟨hs, vs, t.pump.pixv, t.pump.pix⟩ :: s.env.trace, ticks := s.env.ticks + 1 } ∧
      t.cfg = s.cfg ∧ t.tseq = s.tseq ∧ t.plu = s.plu ∧ t.dma = s.dma ∧ t.producers = s.producers ∧
      SameBytes s t

/-- A word with wait count `c` is in execution for exactly `c + 3` ticks (`41_timing_generator.md` R453,
`30_encoding.md` R302): after `k` of them `c + 3 - k` are left, the levels are the word's in each, and `LINE_F`
and `FRAME_F` change only at the last. -/
def Obligations.WordLastsItsCountPlusThree : Prop :=
  ∀ (tr : Trig) (count : BitVec 16) (hs vs : Bool) (s : State) (k : Nat),
    s.tgen.remain = 0 → 1 ≤ k → k ≤ count.toNat + 3 →
    ∃ t, execTimes (Instr.ofTiming tr count hs vs) k s = some t ∧
      t.tgen.remain.toNat = count.toNat + 3 - k ∧ t.tgen.hs = hs ∧ t.tgen.vs = vs ∧
      t.tgen.word = timingWord tr vs hs count ∧ t.tgen.tq = s.tgen.tq ∧
      t.regs.lineF = (s.regs.lineF || (decide (k = count.toNat + 3) && decide (tr = .nextLine))) ∧
      t.regs.frameF = (s.regs.frameF || (decide (k = count.toNat + 3) && decide (tr = .frameReady)))

/-- `41_timing_generator.md` R455: in a word's last cycle the trigger raises the `*_LOST` code of its flag
exactly when that flag is still set (`START_F` as the pump part of the same tick left it), and `TW.NONE` raises
nothing. -/
def Obligations.LostTriggersAreReported : Prop :=
  ∀ (count : BitVec 16) (hs vs : Bool) (s : State), s.tgen.remain = 1 →
    let p := pumpCycle s.regs.startF s
    (∃ t, exec (.twNone count hs vs) s = .next t ∧ t.regs = p.regs) ∧
    (∃ t, exec (.twLineReady count hs vs) s = .next t ∧ t.regs = { p.regs with
      startF := true
      status := if p.regs.startF then p.regs.status ||| Code.startLost.mask else p.regs.status }) ∧
    (∃ t, exec (.twNextLine count hs vs) s = .next t ∧ t.regs = { p.regs with
      lineF := true
      status := if s.regs.lineF then p.regs.status ||| Code.lineLost.mask else p.regs.status }) ∧
    (∃ t, exec (.twFrameReady count hs vs) s = .next t ∧ t.regs = { p.regs with
      frameF := true
      status := if s.regs.frameF then p.regs.status ||| Code.frameLost.mask else p.regs.status })

/-- `41_timing_generator.md` R454: a tick that needs a word and finds `TQ` empty raises `TQ_UNDERRUN` and leaves
TGEN as it is, outputs held; no trigger is reported; the pump part runs. -/
def Obligations.EmptyQueueStallsTheTick : Prop :=
  ∀ s : State, s.tgen.en = true → s.tgen.remain = 0 → s.tgen.tq = [] →
    ∃ t, agentTurn .tick s = .next t ∧ t.tgen = s.tgen ∧
      t.regs.status = (pumpCycle s.regs.startF s).regs.status ||| Code.tqUnderrun.mask ∧
      t.regs.lineF = s.regs.lineF ∧ t.regs.frameF = s.regs.frameF ∧
      t.regs.startF = (pumpCycle s.regs.startF s).regs.startF ∧
      t.pump = (pumpCycle s.regs.startF s).pump ∧
      t.env.trace = ⟨s.tgen.hs, s.tgen.vs, t.pump.pixv, t.pump.pix⟩ :: s.env.trace

/-! ## The pump part of the tick -/

/-- `42_pixel_pump.md` R503, R508, R509: a pump that is disabled, or waits and sees no start, pops nothing, emits
nothing, and leaves the start latch alone; a shifting pump that finds no pixel raises `PIX_UNDERRUN`, keeps its
line, and emits nothing. -/
def Obligations.PumpWaitsOrStalls : Prop :=
  ∀ (s : State) (start : Bool),
    (s.pump.en = false ∨ (s.pump.st = .waitStart ∧ start = false) →
      ∃ px, pumpCycle start s = { s with pump := { s.pump with pixv := false, pix := px } }) ∧
    (s.pump.en = true → s.pump.st = .shift → s.pump.pf = [] → (s.cfg.mode = .direct → s.pump.hv = false) →
      ∃ px, pumpCycle start s = { s with
        regs := { s.regs with status := s.regs.status ||| Code.pixUnderrun.mask }
        pump := { s.pump with pixv := false, pix := px } })

/-- `42_pixel_pump.md` R504, R506 to R508: a waiting, enabled pump that sees the start consumes the latch and emits
its first pixel in the same tick: the palette entry's bits 31:14, or the encoding of the word's low half with
the high half held. With `PF` empty it consumes the latch and begins the line, and that tick is an underrun. -/
def Obligations.PumpStartsOnTheLatch : Prop :=
  ∀ s : State, s.cfg.wf = true → s.pump.en = true → s.pump.st = .waitStart → s.pump.hv = false →
    (∀ w q, s.pump.pf = w :: q →
      let t := pumpCycle true s
      t.regs = { s.regs with startF := false } ∧ t.pump.st = .shift ∧
      t.pump.left.toNat = s.cfg.width - 1 ∧ t.pump.pf = q ∧ t.pump.pixv = true ∧
      (s.cfg.mode = .indexed → t.pump.pix = w.extractLsb' 14 18 ∧ t.pump.hv = false) ∧
      (s.cfg.mode = .direct → t.pump.pix = Config.encodePixelWordDirect (w.extractLsb' 0 16) ∧
        t.pump.hv = true ∧ t.pump.hi = w.extractLsb' 16 16)) ∧
    (s.pump.pf = [] → ∃ px, pumpCycle true s = { s with
      regs := { s.regs with startF := false, status := s.regs.status ||| Code.pixUnderrun.mask }
      pump := { s.pump with st := .shift, left := BitVec.ofNat 16 s.cfg.width, pixv := false, pix := px } })

/-- `42_pixel_pump.md` R505 to R507: a shifting pump emits one pixel a tick: the held half word if there is one,
else from the next word of `PF`; the last pixel of the line returns it to `WAIT_START`. -/
def Obligations.PumpEmitsOnePixel : Prop :=
  ∀ (s : State) (start : Bool), s.pump.en = true → s.pump.st = .shift →
    (s.cfg.mode = .direct → s.pump.hv = true → pumpCycle start s = { s with pump := { s.pump with
      pix := Config.encodePixelWordDirect s.pump.hi, pixv := true, hv := false, left := s.pump.left - 1
      st := if s.pump.left = 1 then .waitStart else .shift } }) ∧
    (∀ w q, s.cfg.mode = .direct → s.pump.hv = false → s.pump.pf = w :: q →
      pumpCycle start s = { s with pump := { s.pump with
        pix := Config.encodePixelWordDirect (w.extractLsb' 0 16), pixv := true, hv := true
        hi := w.extractLsb' 16 16, pf := q, left := s.pump.left - 1
        st := if s.pump.left = 1 then .waitStart else .shift } }) ∧
    (∀ w q, s.cfg.mode = .indexed → s.pump.pf = w :: q →
      pumpCycle start s = { s with pump := { s.pump with
        pix := w.extractLsb' 14 18, pixv := true, pf := q, left := s.pump.left - 1
        st := if s.pump.left = 1 then .waitStart else .shift } })

/-! ## The sequencer -/

/-- `40_timing_sequencer.md` R400 to R406: an enabled TSEQ step pushes one word, with the levels, the wait count
and the trigger of its phase and row, and moves on; the row changes only in phase 3 and wraps at `V_FRONT`. -/
def Obligations.SequencerPushesThePhaseWord : Prop :=
  ∀ s : State, s.cfg.wf = true → s.tseq.en = true → s.tgen.tq.length ≠ s.cfg.tqDepth →
    s.tseq.row.toNat < s.cfg.vFront →
    ∃ w t, agentTurn .tseq s = .next t ∧
      t = { s with tgen := { s.tgen with tq := s.tgen.tq ++ [w] }, tseq := t.tseq } ∧
      t.tseq.en = true ∧ t.tseq.phase.toNat = (s.tseq.phase.toNat + 1) % 4 ∧
      t.tseq.row.toNat =
        (if s.tseq.phase = 3 then
          (if s.tseq.row.toNat + 1 = s.cfg.vFront then 0 else s.tseq.row.toNat + 1)
        else s.tseq.row.toNat) ∧
      timingWordOk w = true ∧
      wordVs w = decide (s.cfg.vPulse ≤ s.tseq.row.toNat) ∧
      wordHs w = decide (s.tseq.phase ≠ 1) ∧
      (wordCount w).toNat + 3 =
        (if s.tseq.phase = 0 then s.cfg.hFront else if s.tseq.phase = 1 then s.cfg.hPulse
        else if s.tseq.phase = 2 then s.cfg.hBack else s.cfg.hDisplay) ∧
      (wordTrig w = .lineReady ↔
        s.tseq.phase = 2 ∧ s.cfg.vBack ≤ s.tseq.row.toNat ∧ s.tseq.row.toNat < s.cfg.vDisplay) ∧
      (wordTrig w = .nextLine ↔
        s.tseq.phase = 3 ∧ s.cfg.vBack - 1 ≤ s.tseq.row.toNat ∧ s.tseq.row.toNat < s.cfg.vDisplay) ∧
      (wordTrig w = .frameReady ↔ s.tseq.phase = 3 ∧ s.tseq.row.toNat = s.cfg.vDisplay)

/-- `40_timing_sequencer.md` R407: one frame's `4 * V_FRONT` words hold exactly `HEIGHT` `LINE_READY`,
`HEIGHT + 1` `NEXT_LINE` and one `FRAME_READY`, and leave the sequencer where it began, so the sequence
repeats. -/
def Obligations.FrameHasItsTriggers : Prop :=
  ∀ (c : Config) (t : Tseq), c.wf = true → t.phase = 0 → t.row = 0 →
    let r := sequence c (4 * c.vFront) t
    r.2 = t ∧ r.1.length = 4 * c.vFront ∧ countTrig .lineReady r.1 = c.height ∧
      countTrig .nextLine r.1 = c.height + 1 ∧ countTrig .frameReady r.1 = 1

/-- `41_timing_generator.md` R457: the start step is enabled when `RUN = 1`, `TSEQ_EN = 1`, `TG_EN = 0` and `TQ`
is full, and only sets `TG_EN`; otherwise a turn of it changes nothing. -/
def Obligations.ClockStartsWhenTheQueueIsFull : Prop :=
  ∀ s : State,
    agentTurn .tgenStart s =
      .next (if s.regs.run = true ∧ s.tseq.en = true ∧ s.tgen.en = false ∧ s.tgen.tq.length = s.cfg.tqDepth
        then { s with tgen := { s.tgen with en := true } } else s)

/-! ## The palette -/

/-- `43_palette_lookup.md` R552, R553: a load takes the next word of four indices; a lookup pushes the address of
the next index's entry; each leaves everything else. -/
def Obligations.PaletteLoadAndLookup : Prop :=
  ∀ s : State, s.cfg.mode = .indexed → s.plu.en = true →
    (∀ w q, s.plu.n = 0 → s.plu.pli = w :: q →
      agentTurn .plu s = .next { s with plu := { s.plu with pli := q, sr := w, n := 4 } }) ∧
    (∀ k : Nat, k < 4 → s.plu.n.toNat = 4 - k → s.plu.plo.length ≠ s.cfg.ploDepth →
      agentTurn .plu s = .next { s with plu := { s.plu with
        plo := s.plu.plo ++
          [s.cfg.paletteBase + BitVec.ofNat 32 (4 * (s.plu.sr.extractLsb' (8 * k) 8).toNat)]
        n := s.plu.n - 1 } })

/-- `43_palette_lookup.md` R555: from one word of `PLI`, with room for four results, the unit's next five steps
push the addresses of the word's four indices in pixel order. -/
def Obligations.PaletteKeepsPixelOrder : Prop :=
  ∀ (s : State) (w : Word) (q : List Word), s.cfg.mode = .indexed → s.plu.en = true → s.plu.n = 0 →
    s.plu.pli = w :: q → s.plu.plo.length + 4 ≤ s.cfg.ploDepth →
    ∃ s1 s2 s3 s4 t, agentTurn .plu s = .next s1 ∧ agentTurn .plu s1 = .next s2 ∧
      agentTurn .plu s2 = .next s3 ∧ agentTurn .plu s3 = .next s4 ∧ agentTurn .plu s4 = .next t ∧
      t.plu.n = 0 ∧ t.plu.pli = q ∧
      t.plu.plo = s.plu.plo ++
        [paletteAddr s.cfg (w.toNat % 256), paletteAddr s.cfg (w.toNat / 2 ^ 8 % 256),
          paletteAddr s.cfg (w.toNat / 2 ^ 16 % 256), paletteAddr s.cfg (w.toNat / 2 ^ 24)]

/-- `43_palette_lookup.md` R560, R561: the entry of an 8-bit colour has `r >> 3` in bits 31:27, `g >> 2` in 26:21,
`b >> 2` in 20:15, a copy of bit 27 in bit 14, and bits 13:0 zero; the 6-bit encoder agrees with it. -/
def Obligations.PaletteEntryLayout : Prop :=
  ∀ r g b : BitVec 8,
    (encPal8 r g b).toNat =
      (r.toNat / 8) * 2 ^ 27 + (g.toNat / 4) * 2 ^ 21 + (b.toNat / 4) * 2 ^ 15 + (r.toNat / 8 % 2) * 2 ^ 14 ∧
    encPal6 (BitVec.ofNat 6 (r.toNat / 4)) (BitVec.ofNat 6 (g.toNat / 4)) (BitVec.ofNat 6 (b.toNat / 4)) =
      encPal8 r g b

/-! ## The DMA chain -/

/-- `44_dma_chain.md` R610, R615: a trigger writes `READ_ADDR` and starts a run of `TRANS_COUNT` transfers, or,
with address 0 or on a disabled channel, leaves it idle; a busy channel's trigger raises `DMA_RETRIGGER`; a run
of no transfers is refused; an abort ends a run and starts nothing. No other channel changes. -/
def Obligations.TriggerAndAbort : Prop :=
  ∀ (n : ChanId) (v : Word) (s : State),
    let x := s.chan n
    let f := if x.ctrl.busy then { s.regs with status := s.regs.status ||| Code.dmaRetrigger.mask } else s.regs
    (v = 0 ∨ x.ctrl.en = false → trigger n v s = .ok { s with
      regs := f
      dma := s.dma.set n { x with readAddr := v, ctrl := { x.ctrl with busy := false }, remain := 0 } }) ∧
    (v ≠ 0 → x.ctrl.en = true → x.transCount ≠ 0 → trigger n v s = .ok { s with
      regs := f
      dma := s.dma.set n
        { x with readAddr := v, ctrl := { x.ctrl with busy := true }, remain := x.transCount } }) ∧
    (v ≠ 0 → x.ctrl.en = true → x.transCount = 0 → trigger n v s = .error .zeroTransCount) ∧
    abort n s = { s with dma := s.dma.set n { x with ctrl := { x.ctrl with busy := false }, remain := 0 } } ∧
    (∀ m y, m ≠ n → (s.dma.set n y).get m = s.dma.get m ∧ (s.dma.set n y).get n = y)

/-- `44_dma_chain.md` R612, R614, R641, R651: a due transfer of channel A moves the word at `READ_ADDR` onto `PF`
in the direct topology, and onto `PLI` in the indexed one, and steps the address; the last one of a row leaves A
idle and starts B on `LINEPTR`. Nothing else changes. -/
def Obligations.ChannelAStreamsTheRow : Prop :=
  ∀ s : State, ScanLegal s → ChainLegal s → s.dma.a.ctrl.busy = true →
    let v := memRead s.mem s.dma.a.readAddr .word
    let chain : Channels := { s.dma with
      a := { s.dma.a with
        readAddr := s.dma.a.readAddr + 4
        remain := s.dma.a.remain - 1
        ctrl := { s.dma.a.ctrl with busy := decide (s.dma.a.remain ≠ 1) } }
      b := if s.dma.a.remain = 1 then
          { s.dma.b with ctrl := { s.dma.b.ctrl with busy := true }, remain := 1 }
        else s.dma.b }
    (s.cfg.mode = .direct → s.pump.pf.length ≠ s.cfg.pfDepth →
      agentTurn (.dma .a) s = .next { s with pump := { s.pump with pf := s.pump.pf ++ [v] }, dma := chain }) ∧
    (s.cfg.mode = .indexed → s.plu.pli.length ≠ s.cfg.pliDepth →
      agentTurn (.dma .a) s = .next { s with plu := { s.plu with pli := s.plu.pli ++ [v] }, dma := chain })

/-- `44_dma_chain.md` R641, R650: channel B's one transfer stores `LINEPTR` into A's trigger, which starts A on the
published row, or leaves A idle when the sentinel is published; B is idle after it. Nothing else changes. -/
def Obligations.ChannelBReloadsFromLinePtr : Prop :=
  ∀ s : State, ScanLegal s → ChainLegal s → s.dma.b.ctrl.busy = true →
    agentTurn (.dma .b) s = .next { s with
      dma := { s.dma with
        a := { s.dma.a with
          readAddr := s.regs.linePtr
          ctrl := { s.dma.a.ctrl with busy := decide (s.regs.linePtr ≠ 0) }
          remain := if s.regs.linePtr = 0 then 0 else BitVec.ofNat 32 s.cfg.lineWords }
        b := { s.dma.b with ctrl := { s.dma.b.ctrl with busy := false }, remain := 0 } } }

/-- `44_dma_chain.md` R651, in the indexed topology: C pops one entry address from `PLO` and starts D on it; D
moves that palette entry onto `PF` and starts C again. An entry address of 0 is D's null trigger (R610): it leaves
both idle. -/
def Obligations.ChannelsCAndDMoveOnePixel : Prop :=
  ∀ s : State, ScanLegal s → ChainLegal s → s.cfg.mode = .indexed →
    (∀ v q, s.dma.c.ctrl.busy = true → s.plu.plo = v :: q → v ≠ 0 →
      agentTurn (.dma .c) s = .next { s with
        plu := { s.plu with plo := q }
        dma := { s.dma with
          c := { s.dma.c with ctrl := { s.dma.c.ctrl with busy := false }, remain := 0 }
          d := { s.dma.d with readAddr := v, ctrl := { s.dma.d.ctrl with busy := true }, remain := 1 } } }) ∧
    (∀ q, s.dma.c.ctrl.busy = true → s.plu.plo = 0 :: q →
      agentTurn (.dma .c) s = .next { s with
        plu := { s.plu with plo := q }
        dma := { s.dma with
          c := { s.dma.c with ctrl := { s.dma.c.ctrl with busy := false }, remain := 0 }
          d := { s.dma.d with readAddr := 0 } } }) ∧
    (s.dma.d.ctrl.busy = true → s.pump.pf.length ≠ s.cfg.pfDepth →
      agentTurn (.dma .d) s = .next { s with
        pump := { s.pump with pf := s.pump.pf ++ [memRead s.mem s.dma.d.readAddr .word] }
        dma := { s.dma with
          d := { s.dma.d with ctrl := { s.dma.d.ctrl with busy := false }, remain := 0 }
          c := { s.dma.c with ctrl := { s.dma.c.ctrl with busy := true }, remain := 1 } } })

/-- `20_memory.md` R205, R206, `10_state.md` R110, R141, R150: a DMA access to an unmapped address raises
`BUS_ERROR`, a load giving 0 and a store being discarded; so does a store to a register that is no port, to a
port the mode does not have, and to a channel register other than the trigger alias; a store to a full `PF` or
`PLI` is discarded with `FIFO_OVERFLOW`, and a load from an empty `PLO` gives 0 with it. A store to the
port `PLU_OUTF` has no effect (R141 over R205's general words, log entry 13). A word only partly in a region counts
as unmapped (log entry 15). -/
def Obligations.BadDmaAccessesAreReported : Prop :=
  ∀ (s : State) (a v : Word), a.toNat % 4 = 0 → s.cfg.wf = true →
    let bad := { s with regs := { s.regs with status := s.regs.status ||| Code.busError.mask } }
    let lost := { s with regs := { s.regs with status := s.regs.status ||| Code.fifoOverflow.mask } }
    (region s.cfg a 4 = .unmapped → dmaLoad s a = (0, bad) ∧ dmaStore s a v = .ok bad) ∧
    (∀ off, a.toNat = s.cfg.regBase.toNat + off →
      (off < 0x40 ∨ 0x4C ≤ off ∧ off < 0x100 → dmaStore s a v = .ok bad) ∧
      (off = 0x40 → s.pump.pf.length = s.cfg.pfDepth → dmaStore s a v = .ok lost) ∧
      (off = 0x44 → s.cfg.mode = .indexed → s.plu.pli.length = s.cfg.pliDepth → dmaStore s a v = .ok lost) ∧
      (off = 0x48 → s.cfg.mode = .indexed → s.plu.plo = [] → dmaLoad s a = (0, lost)) ∧
      (off = 0x48 → s.cfg.mode = .indexed → dmaStore s a v = .ok s) ∧
      (off = 0x44 ∨ off = 0x48 → s.cfg.mode = .direct → dmaStore s a v = .ok bad)) ∧
    (∀ off, a.toNat = s.cfg.dmaBase.toNat + off → off < 0x100 → off % 0x40 ≠ 0x10 → dmaStore s a v = .ok bad)

/-! ## Producers' accesses -/

/-- `10_state.md` R110 to R140, R150, R151: what a producer's 32-bit load of each register of the register window,
and of each channel's registers in the DMA window, returns; the trigger alias reads `READ_ADDR`, and the reserved
offsets read 0. In direct mode, where the spec has no channels C and D, what a load of their blocks returns is the
model's choice (log entry 16). The FIFO ports, 0x40 to 0x48, are left out (log entry 14). -/
def Obligations.RegisterWindowReads : Prop :=
  ∀ s : State, s.cfg.wf = true →
    (let at_ (k : Nat) := producerLoad s (s.cfg.regBase + BitVec.ofNat 32 k) .word
    at_ 0x00 = .ok (BitVec.ofNat 32 (s.regs.run.toNat + 2 * (decide (s.cfg.mode = .indexed)).toNat +
      4 * s.cfg.rowShift.toNat + 8 * (decide (s.cfg.rotation = 180)).toNat)) ∧
    at_ 0x04 = .ok (BitVec.ofNat 32 s.regs.status.toNat) ∧
    at_ 0x08 = .ok (BitVec.ofNat 32
      (s.regs.lineF.toNat + 2 * s.regs.frameF.toNat + 4 * s.regs.startF.toNat)) ∧
    at_ 0x0C = .ok (BitVec.ofNat 32 (s.regs.lineE.toNat + 2 * s.regs.frameE.toNat)) ∧
    at_ 0x10 = .ok s.regs.linePtr ∧ at_ 0x14 = .ok s.regs.liveBase ∧ at_ 0x18 = .ok s.regs.pendAddr ∧
    at_ 0x1C = .ok (BitVec.ofNat 32 s.regs.pendValid.toNat) ∧
    at_ 0x20 = .ok (BitVec.ofNat 32 (s.tseq.row.toNat + 2 ^ 16 * s.tseq.phase.toNat)) ∧
    at_ 0x24 = .ok (BitVec.ofNat 32 s.regs.displayRow.toNat) ∧
    at_ 0x28 = .ok (BitVec.ofNat 32 s.regs.vsWait.toNat) ∧ at_ 0x2C = .ok s.regs.blDuty ∧
    (∀ k, k % 4 = 0 → (0x30 ≤ k ∧ k ≤ 0x3C ∨ 0x4C ≤ k ∧ k ≤ 0xFC) → at_ k = .ok 0)) ∧
    (∀ p ∈ [(0x00, s.dma.a), (0x40, s.dma.b), (0x80, s.dma.c), (0xC0, s.dma.d)],
      let at_ (k : Nat) := producerLoad s (s.cfg.dmaBase + BitVec.ofNat 32 (p.1 + k)) .word
      at_ 0x00 = .ok p.2.readAddr ∧ at_ 0x04 = .ok p.2.writeAddr ∧ at_ 0x08 = .ok p.2.transCount ∧
      at_ 0x0C = .ok (BitVec.ofNat 32 (p.2.ctrl.en.toNat + 2 * p.2.ctrl.busy.toNat + 4 * p.2.ctrl.incrRead.toNat +
        8 * p.2.ctrl.incrWrite.toNat + 16 * p.2.ctrl.bswap.toNat + 32 * p.2.ctrl.dreq.toNat +
        256 * p.2.ctrl.chainTo.toNat)) ∧
      at_ 0x10 = .ok p.2.readAddr ∧ at_ 0x14 = .ok p.2.remain ∧
      (∀ k, k % 4 = 0 → 0x18 ≤ k → k ≤ 0x3C → at_ k = .ok 0))

/-- `20_memory.md` R203 to R206, R214: a producer's aligned accesses to RAM load and store it, least significant
byte first, and nothing else changes; a store to a window, a narrow window access, a misaligned access and an
access outside RAM and the windows are refused (one only partly in RAM too, log entry 15). -/
def Obligations.ProducerAccesses : Prop :=
  ∀ (s : State) (a v : Word) (z : Size), s.cfg.wf = true →
    let inWindow := s.cfg.regBase.toNat ≤ a.toNat ∧ a.toNat < s.cfg.regBase.toNat + 0x100 ∨
      s.cfg.dmaBase.toNat ≤ a.toNat ∧ a.toNat < s.cfg.dmaBase.toNat + 0x100
    (a.toNat % z.bytes = 0 → s.cfg.inRam a z.bytes = true →
      (∃ u : Word, producerLoad s a z = .ok u ∧ u.toNat < 2 ^ (8 * z.bytes) ∧
        ∀ i, i < z.bytes → u.extractLsb' (8 * i) 8 = Memory.read s.mem (a.toNat + i)) ∧
      ∃ t, producerStore s a z v = .ok t ∧ t = { s with mem := t.mem } ∧ SameBytesBut s t a z.bytes ∧
        (MemoryCanonical s →
          memRead t.mem a z = v &&& BitVec.ofNat 32 (2 ^ (8 * z.bytes) - 1) ∧
          ∀ i, i < z.bytes → Memory.read t.mem (a.toNat + i) = v.extractLsb' (8 * i) 8)) ∧
    (a.toNat % z.bytes ≠ 0 →
      producerLoad s a z = .error .misalignedAccess ∧ producerStore s a z v = .error .misalignedAccess) ∧
    (a.toNat % z.bytes = 0 → inWindow →
      producerStore s a z v = .error .windowStore ∧
      (z ≠ .word → producerLoad s a z = .error .narrowWindowAccess)) ∧
    (a.toNat % z.bytes = 0 → s.cfg.inRam a z.bytes = false → ¬inWindow →
      producerLoad s a z = .error .unmappedAccess ∧ producerStore s a z v = .error .unmappedAccess)

/-! ## The dispatcher -/

/-- `45_dispatcher.md` R710: the frame transition takes the pending buffer, goes back to row 0, ends every run,
empties the pump and, in indexed mode, the PLU, publishes the live buffer and starts A on it (and C, R652), and
clears `FRAME_F` and the vsync flag. `LINE_F`, `START_F`, `PENDADDR`, `STATUS`, the timing state and memory do
not change. -/
def Obligations.FrameTransitionSwapsAndRestarts : Prop :=
  ∀ s : State, ScanLegal s → ChainLegal s → s.regs.run = true → s.regs.frameF = true → s.regs.frameE = true →
    let live := if s.regs.pendValid then s.regs.pendAddr else s.regs.liveBase
    agentTurn .disp s = .next { s with
      regs := { s.regs with
        frameF := false
        liveBase := live
        pendValid := false
        displayRow := 0
        linePtr := live
        vsWait := false }
      pump := { s.pump with en := true, st := .waitStart, left := 0, hv := false, hi := 0, pf := [] }
      plu := if s.cfg.mode = .indexed then { s.plu with pli := [], plo := [], sr := 0, n := 0 } else s.plu
      dma :=
        { a := { s.dma.a with
            readAddr := live
            ctrl := { s.dma.a.ctrl with busy := decide (live ≠ 0) }
            remain := if live = 0 then 0 else BitVec.ofNat 32 s.cfg.lineWords }
          b := { s.dma.b with ctrl := { s.dma.b.ctrl with busy := false }, remain := 0 }
          c := if s.cfg.mode = .indexed then
              { s.dma.c with ctrl := { s.dma.c.ctrl with busy := true }, remain := 1 }
            else s.dma.c
          d := if s.cfg.mode = .indexed then
              { s.dma.d with ctrl := { s.dma.d.ctrl with busy := false }, remain := 0 }
            else s.dma.d } }

/-- `45_dispatcher.md` R720: the line transition clears `LINE_F`, moves to the next row, saturating at `HEIGHT`, and
publishes that row's address, or the sentinel at `HEIGHT`. -/
def Obligations.LineTransitionPublishesTheNextRow : Prop :=
  ∀ s : State, s.cfg.wf = true → s.regs.run = true → s.regs.lineF = true → s.regs.lineE = true →
    ¬(s.regs.frameF = true ∧ s.regs.frameE = true) →
    ∃ t, agentTurn .disp s = .next t ∧
      t = { s with regs := { s.regs with
        lineF := false, displayRow := t.regs.displayRow, linePtr := t.regs.linePtr } } ∧
      t.regs.displayRow.toNat = min (s.regs.displayRow.toNat + 1) s.cfg.height ∧
      t.regs.linePtr =
        (if t.regs.displayRow.toNat = s.cfg.height then 0
        else s.regs.liveBase +
          BitVec.ofNat 32 (s.cfg.stride * (t.regs.displayRow.toNat / 2 ^ s.cfg.rowShift.toNat)))

/-- `20_memory.md` R218: within a frame `LINEPTR` only moves forward through the buffer: a line transition that
publishes no sentinel publishes an address not below the one it replaces, and inside the live buffer. -/
def Obligations.LinePointerMovesForward : Prop :=
  ∀ s t : State, ScanLegal s → dispEnabled s = true → framePending s = false → agentTurn .disp s = .next t →
    t.regs.linePtr ≠ 0 →
    s.regs.linePtr.toNat ≤ t.regs.linePtr.toNat ∧ s.regs.liveBase.toNat ≤ t.regs.linePtr.toNat ∧
      t.regs.linePtr.toNat + s.cfg.stride ≤ s.regs.liveBase.toNat + s.cfg.bufBytes

/-- `45_dispatcher.md` R700, `60_exceptions.md` R912: DISP moves exactly when `RUN = 1` and an enabled flag is set;
with both flags pending the frame transition runs first and leaves `LINE_F` pending. -/
def Obligations.FrameEventComesFirst : Prop :=
  (∀ s : State, enabled .disp s = true ↔ s.regs.run = true ∧
    (s.regs.frameF = true ∧ s.regs.frameE = true ∨ s.regs.lineF = true ∧ s.regs.lineE = true)) ∧
  (∀ s t : State, s.regs.run = true → s.regs.frameF = true → s.regs.frameE = true → s.regs.lineF = true →
    s.regs.lineE = true → agentTurn .disp s = .next t →
    t.regs.frameF = false ∧ t.regs.lineF = true ∧ t.regs.displayRow = 0 ∧ enabled .disp t = true)

/-! ## Host commands -/

/-- `46_host_commands.md` R810: `INIT`, not running and with its resources, programs the channels of the mode
(`44_dma_chain.md` R640, R650), resets the engines, primes channel A with the live buffer, arms the dispatcher
and enables TSEQ; it leaves `LIVEBASE`, the mailbox, `VSWAIT`, `BLDUTY`, `STATUS` and memory. While running it is
refused; without its resources it sets `INIT_FAIL` and nothing else. Its write of `LINEPTR` and R1034's words are log
entry 25. -/
def Obligations.InitProgramsTheBlock : Prop :=
  ∀ s : State, s.cfg.wf = true →
    (s.regs.run = true →
      exec .init s = .next { s with regs := { s.regs with status := s.regs.status ||| Code.unsupported.mask } }) ∧
    (s.regs.run = false → resOk s = false → exec .init s = .next { s with
      regs := { s.regs with status := s.regs.status ||| Code.initFail.mask }
      env := { s.env with draws := s.env.draws.tail, drawn := s.env.drawn + 1 } }) ∧
    (s.regs.run = false → resOk s = true → ∃ t, exec .init s = .next t ∧
      t.regs = { s.regs with
        run := true, lineE := true, frameE := true, lineF := false, frameF := false, startF := false
        displayRow := 0, linePtr := s.regs.liveBase } ∧
      t.tseq = ⟨true, 0, 0⟩ ∧
      t.tgen = { s.tgen with tq := [], word := 0, remain := 0, en := false } ∧
      t.pump = { s.pump with en := true, st := .waitStart, left := 0, hv := false, hi := 0, pf := [] } ∧
      t.plu = (if s.cfg.mode = .indexed then ⟨true, 0, 0, [], []⟩ else s.plu) ∧
      t.cfg = s.cfg ∧ t.mem = s.mem ∧ t.producers = s.producers ∧
      t.env = { s.env with draws := s.env.draws.tail, drawn := s.env.drawn + 1 } ∧
      (s.regs.liveBase ≠ 0 → t.dma.a.readAddr = s.regs.liveBase ∧
        t.dma.a.remain = BitVec.ofNat 32 s.cfg.lineWords ∧
        t.dma.a.ctrl.toWord = (if s.cfg.mode = .indexed then 0x147 else 0x137)) ∧
      (s.regs.liveBase = 0 → t.dma.a.readAddr = 0 ∧ t.dma.a.remain = 0 ∧
        t.dma.a.ctrl.toWord = (if s.cfg.mode = .indexed then 0x145 else 0x135)) ∧
      t.dma.a.transCount = BitVec.ofNat 32 s.cfg.lineWords ∧
      t.dma.a.writeAddr = s.cfg.regBase + (if s.cfg.mode = .indexed then 0x44 else 0x40) ∧
      t.dma.b.readAddr = s.cfg.regBase + 0x10 ∧ t.dma.b.writeAddr = s.cfg.dmaBase + 0x10 ∧
      t.dma.b.transCount = 1 ∧ t.dma.b.remain = 0 ∧ t.dma.b.ctrl.toWord = 0x101 ∧
      (s.cfg.mode = .direct → t.dma.c = .zero ∧ t.dma.d = .zero) ∧
      (s.cfg.mode = .indexed →
        t.dma.c.readAddr = s.cfg.regBase + 0x48 ∧ t.dma.c.writeAddr = s.cfg.dmaBase + 0xD0 ∧
        t.dma.c.transCount = 1 ∧ t.dma.c.remain = 1 ∧ t.dma.c.ctrl.toWord = 0x263 ∧
        t.dma.d.readAddr = 0 ∧ t.dma.d.writeAddr = s.cfg.regBase + 0x40 ∧
        t.dma.d.transCount = 1 ∧ t.dma.d.remain = 0 ∧ t.dma.d.ctrl.toWord = 0x221))

/-- `46_host_commands.md` R815: `TEARDOWN` disables the interrupts, ends and disables the channels, stops the
engines and empties their queues, and clears `RUN`; it writes nothing else. It is idempotent, and before any
`INIT` it changes nothing. -/
def Obligations.TeardownStopsTheBlock : Prop :=
  (∀ s : State, ∃ t, exec .teardown s = .next t ∧
    t.regs = { s.regs with run := false, lineE := false, frameE := false } ∧
    t.tseq = { s.tseq with en := false } ∧ t.tgen = { s.tgen with en := false, tq := [] } ∧
    t.pump = { s.pump with en := false, st := .waitStart, left := 0, hv := false, hi := 0, pf := [] } ∧
    t.plu = (if s.cfg.mode = .indexed then ⟨false, 0, 0, [], []⟩ else { s.plu with en := false }) ∧
    (∀ n, t.chan n = if s.cfg.hasChan n then
        { s.chan n with ctrl := { (s.chan n).ctrl with en := false, busy := false }, remain := 0 }
      else s.chan n) ∧
    t.cfg = s.cfg ∧ t.mem = s.mem ∧ t.producers = s.producers ∧ t.env = s.env ∧
    exec .teardown t = .next t) ∧
  (∀ c : Config, exec .teardown (State.ofConfig c) = .next (State.ofConfig c))

/-- `46_host_commands.md` R820: `SET_FRAMEBUFFER` publishes a buffer that is word-aligned and wholly in RAM, and
refuses any other with `ARG_RANGE`. Address ranges are compared in the naturals (log entry 18). -/
def Obligations.SetFramebufferPublishes : Prop :=
  ∀ (b : Word) (s : State),
    (b.toNat % 4 = 0 → s.cfg.ramBase.toNat ≤ b.toNat →
      b.toNat + s.cfg.bufBytes ≤ s.cfg.ramBase.toNat + s.cfg.ramSize →
      exec (.setFramebuffer b) s =
        .next { s with regs := { s.regs with pendAddr := b, pendValid := true } }) ∧
    (¬(b.toNat % 4 = 0 ∧ s.cfg.ramBase.toNat ≤ b.toNat ∧
        b.toNat + s.cfg.bufBytes ≤ s.cfg.ramBase.toNat + s.cfg.ramSize) →
      exec (.setFramebuffer b) s =
        .next { s with regs := { s.regs with status := s.regs.status ||| Code.argRange.mask } })

/-- `46_host_commands.md` R830: `WAIT_VSYNC` sets the flag in its first step; its second, whichever producer waits,
is enabled only once the flag is clear, and only ends the command. -/
def Obligations.WaitVsyncWaits : Prop :=
  (∀ (s : State) (p : Producer), s.producers[s.env.actor]? = some p →
    exec .waitVsync s = .next { s with
      regs := { s.regs with vsWait := true }
      producers := s.producers.set s.env.actor (withCmd p .waitVsync) }) ∧
  (∀ (s : State) (k : Nat) (p : Producer), s.producers[k]? = some p → p.cmd = .waitVsync →
    enabled (.producer k) s = !s.regs.vsWait ∧
    agentTurn (.producer k) s = .next (if s.regs.vsWait then s else { s with
      env := { s.env with actor := k }
      producers := s.producers.set k (withCmd p .idle) }))

/-- `46_host_commands.md` R840: in indexed mode `SET_PALETTE` writes the entry of an index up to 255 and nothing
else; a larger index is refused with `ARG_RANGE`, and in direct mode the command with `UNSUPPORTED`. -/
def Obligations.SetPaletteWritesOneEntry : Prop :=
  ∀ (i c : Word) (s : State), s.cfg.wf = true →
    (s.cfg.mode = .direct → exec (.setPalette i c) s =
      .next { s with regs := { s.regs with status := s.regs.status ||| Code.unsupported.mask } }) ∧
    (s.cfg.mode = .indexed → 255 < i.toNat → exec (.setPalette i c) s =
      .next { s with regs := { s.regs with status := s.regs.status ||| Code.argRange.mask } }) ∧
    (s.cfg.mode = .indexed → i.toNat ≤ 255 →
      ∃ t, exec (.setPalette i c) s = .next t ∧ t = { s with mem := t.mem } ∧
        SameBytesBut s t (s.cfg.paletteBase + 4 * i) 4 ∧
        (MemoryCanonical s → memRead t.mem (s.cfg.paletteBase + 4 * i) .word =
          encPal8 (c.extractLsb' 16 8) (c.extractLsb' 8 8) (c.extractLsb' 0 8)))

/-- `46_host_commands.md` R860: `SET_BACKLIGHT` sets the duty of a brightness up to 255 by the curve, and refuses a
larger one with `ARG_RANGE`; nothing else changes. -/
def Obligations.SetBacklightFollowsTheCurve : Prop :=
  ∀ (b : Word) (s : State),
    (255 < b.toNat → exec (.setBacklight b) s =
      .next { s with regs := { s.regs with status := s.regs.status ||| Code.argRange.mask } }) ∧
    (b.toNat ≤ 255 → ∃ t, exec (.setBacklight b) s = .next t ∧
      t = { s with regs := { s.regs with blDuty := t.regs.blDuty } } ∧
      (b.toNat = 0 → t.regs.blDuty = 0) ∧ (b.toNat = 255 → t.regs.blDuty = s.cfg.pwmTop) ∧
      (b.toNat ≠ 0 → b.toNat ≠ 255 → t.regs.blDuty.toNat = 181 + b.toNat * b.toNat / 85))

/-- `46_host_commands.md` R870, R872, R873: `UPDATE` with acceptable arguments starts: in direct mode its cursor
stands at 0 of the live buffer, in indexed mode it sets the vsync flag and waits. Other arguments are refused
with `ARG_RANGE`. That the vsync flag is set in the first step is log entry 17; address ranges are compared in
the naturals (log entry 18). -/
def Obligations.UpdateStarts : Prop :=
  ∀ (src n sp : Word) (s : State) (p : Producer), s.producers[s.env.actor]? = some p →
    let fits := n.toNat ≠ 0 ∧ src.toNat % 4 = 0 ∧ s.cfg.ramBase.toNat ≤ src.toNat ∧
      src.toNat + n.toNat * s.cfg.bufBytes ≤ s.cfg.ramBase.toNat + s.cfg.ramSize
    let fitsPal := sp.toNat % 4 = 0 ∧ s.cfg.ramBase.toNat ≤ sp.toNat ∧
      sp.toNat + 1024 ≤ s.cfg.ramBase.toNat + s.cfg.ramSize
    (s.cfg.mode = .direct → fits → exec (.update src n sp) s = .next { s with
      producers := s.producers.set s.env.actor (withCmd p (.uRead src n.toNat s.regs.liveBase 0)) }) ∧
    (s.cfg.mode = .indexed → fits → fitsPal → exec (.update src n sp) s = .next { s with
      regs := { s.regs with vsWait := true }
      producers := s.producers.set s.env.actor (withCmd p (.uiWait src n.toNat sp)) }) ∧
    (¬(fits ∧ (s.cfg.mode = .indexed → fitsPal)) → exec (.update src n sp) s =
      .next { s with regs := { s.regs with status := s.regs.status ||| Code.argRange.mask } })

/-- `46_host_commands.md` R880: `PARTIAL_UPDATE` of one layer, with its source in RAM and its region in the
frame, starts at the region's corner, or ends at once when the region is empty. More layers are refused with
`UNSUPPORTED`, a bad source or region with `ARG_RANGE`. Address ranges are compared in the naturals (log entry
18). -/
def Obligations.PartialUpdateStarts : Prop :=
  ∀ (src n : Word) (x y w h : BitVec 16) (s : State) (p : Producer), s.producers[s.env.actor]? = some p →
    let fits := src.toNat % 4 = 0 ∧ s.cfg.ramBase.toNat ≤ src.toNat ∧
      src.toNat + s.cfg.bufBytes ≤ s.cfg.ramBase.toNat + s.cfg.ramSize ∧
      x.toNat + w.toNat ≤ s.cfg.width ∧ y.toNat + h.toNat ≤ s.cfg.bufRows
    (n ≠ 1 → exec (.partialUpdate src n x y w h) s =
      .next { s with regs := { s.regs with status := s.regs.status ||| Code.unsupported.mask } }) ∧
    (n = 1 → ¬fits → exec (.partialUpdate src n x y w h) s =
      .next { s with regs := { s.regs with status := s.regs.status ||| Code.argRange.mask } }) ∧
    (n = 1 → fits → (w = 0 ∨ h = 0) → exec (.partialUpdate src n x y w h) s = .next s) ∧
    (n = 1 → fits → w ≠ 0 → h ≠ 0 → exec (.partialUpdate src n x y w h) s = .next { s with
      producers := s.producers.set s.env.actor (withCmd p
        (.pCopy src s.regs.liveBase x.toNat y.toNat w.toNat h.toNat y.toNat x.toNat)) })

/-- `46_host_commands.md` R871: the boundary is the whole buffer for the sentinel, the buffer's start, and a
pointer outside the buffer; else one line behind the pointer, and 0 inside the first line. At row `k` of the
buffer it is the start of row `k - 1`. Addresses are compared in the naturals (log entry 18). -/
def Obligations.BoundaryIsOneLineBehind : Prop :=
  ∀ (c : Config) (lp dest : Word), c.wf = true →
    (lp = 0 ∨ lp = dest ∨ lp.toNat < dest.toNat ∨ dest.toNat + c.bufBytes ≤ lp.toNat →
      boundary c lp dest = c.bufBytes) ∧
    (lp ≠ 0 → dest.toNat < lp.toNat → lp.toNat < dest.toNat + c.bufBytes →
      boundary c lp dest + c.stride = max (lp.toNat - dest.toNat) c.stride ∧
      boundary c lp dest < c.bufBytes) ∧
    (∀ k, c.bufferOk dest = true → 1 ≤ k → k < c.bufRows → lp = dest + BitVec.ofNat 32 (c.stride * k) → lp ≠ 0 →
      boundary c lp dest = c.stride * (k - 1))

/-- `46_host_commands.md` R874: of `n` layers that lie in RAM from `src` on, the composite at a pixel's offset is
defined, and is the topmost layer's pixel that is not zero, or the bottom layer's when all above it are zero; layer
`l`'s pixel is the one at `src + l * BUF_BYTES + o`, as wide as a frame-buffer pixel. -/
def Obligations.CompositeTakesTheTopmostNonzero : Prop :=
  ∀ (s : State) (src : Word) (o n : Nat), s.cfg.wf = true → n ≠ 0 → sourceOk s.cfg src n = true →
    o % s.cfg.bpp = 0 → o < s.cfg.bufBytes →
    (pixelSize s.cfg).bytes = s.cfg.bpp ∧
    ∃ v, composite s src o (n - 1) = .ok v ∧ IsComposite s src o n v

/-- `46_host_commands.md` R872: the steps of a direct `UPDATE` in a legal state. A read of `LINEPTR` starts a run
up to the boundary, or backs off; a copy step writes the two bytes at its cursor, which lies below its run end,
with the composite, and moves the cursor on. Nothing else changes. -/
def Obligations.UpdateCopiesBehindTheScan : Prop :=
  ∀ (s : State) (k : Nat) (p : Producer) (src dest : Word) (n cur re : Nat),
    s.cfg.wf = true → CmdLegal s.cfg p.cmd → s.producers[k]? = some p →
    (p.cmd = .uRead src n dest cur → agentTurn (.producer k) s = .next { s with
      env := { s.env with actor := k }
      producers := s.producers.set k (withCmd p
        (if cur < boundary s.cfg s.regs.linePtr dest
          then .uCopy src n dest cur (boundary s.cfg s.regs.linePtr dest) else .uRead src n dest cur)) }) ∧
    (p.cmd = .uCopy src n dest cur re →
      ∃ v t, IsComposite s src cur n v ∧ agentTurn (.producer k) s = .next t ∧
        cur < re ∧ SameBytesBut s t (dest + BitVec.ofNat 32 cur) 2 ∧
        (MemoryCanonical s → memRead t.mem (dest + BitVec.ofNat 32 cur) .half = v) ∧
        t = { s with
          mem := t.mem
          env := { s.env with actor := k }
          producers := s.producers.set k (withCmd p
            (if cur + 2 = s.cfg.bufBytes then .idle
            else if re ≤ cur + 2 then .uRead src n dest (cur + 2)
            else .uCopy src n dest (cur + 2) re)) })

/-- `46_host_commands.md` R873: the steps of an indexed `UPDATE` in a legal state. Its wait ends once the vsync
flag is clear; each palette step encodes one entry of the source palette, the first one sampling the live buffer
as the destination; each copy step writes the composite of one byte. Nothing else changes. -/
def Obligations.IndexedUpdateWritesPaletteThenPixels : Prop :=
  ∀ (s : State) (k : Nat) (p : Producer) (src pal dest : Word) (n i o : Nat),
    s.cfg.wf = true → CmdLegal s.cfg p.cmd → s.producers[k]? = some p →
    (p.cmd = .uiWait src n pal →
      agentTurn (.producer k) s = .next (if s.regs.vsWait then s else { s with
        env := { s.env with actor := k }
        producers := s.producers.set k (withCmd p (.uiPal src n pal 0 0)) })) ∧
    (p.cmd = .uiPal src n pal dest i →
      ∃ t, agentTurn (.producer k) s = .next t ∧
        SameBytesBut s t (s.cfg.paletteBase + BitVec.ofNat 32 (4 * i)) 4 ∧
        (MemoryCanonical s → memRead t.mem (s.cfg.paletteBase + BitVec.ofNat 32 (4 * i)) .word =
          encColour (memRead s.mem (pal + BitVec.ofNat 32 (4 * i)) .word)) ∧
        t = { s with
          mem := t.mem
          env := { s.env with actor := k }
          producers := s.producers.set k (withCmd p
            (if i = 255 then .uiCopy src n dest 0
            else .uiPal src n pal (if i = 0 then s.regs.liveBase else dest) (i + 1))) }) ∧
    (p.cmd = .uiCopy src n dest o →
      ∃ v t, IsComposite s src o n v ∧ agentTurn (.producer k) s = .next t ∧
        SameBytesBut s t (dest + BitVec.ofNat 32 o) 1 ∧
        (MemoryCanonical s → memRead t.mem (dest + BitVec.ofNat 32 o) .byte = v) ∧
        t = { s with
          mem := t.mem
          env := { s.env with actor := k }
          producers := s.producers.set k (withCmd p
            (if o + 1 = s.cfg.bufBytes then .idle else .uiCopy src n dest (o + 1))) })

/-- `46_host_commands.md` R880: a copy step of `PARTIAL_UPDATE` in a legal state copies one pixel of the source to
the same place of the destination and moves along the row, then to the next row. Nothing else changes. -/
def Obligations.PartialUpdateCopiesOnePixel : Prop :=
  ∀ (s : State) (k : Nat) (p : Producer) (src dest : Word) (x y w h yy xx : Nat),
    s.cfg.wf = true → CmdLegal s.cfg p.cmd → s.producers[k]? = some p →
    p.cmd = .pCopy src dest x y w h yy xx →
    let o := yy * s.cfg.stride + xx * s.cfg.bpp
    ∃ t, agentTurn (.producer k) s = .next t ∧
      SameBytesBut s t (dest + BitVec.ofNat 32 o) s.cfg.bpp ∧
      (MemoryCanonical s → memRead t.mem (dest + BitVec.ofNat 32 o) (pixelSize s.cfg) =
        memRead s.mem (src + BitVec.ofNat 32 o) (pixelSize s.cfg)) ∧
      t = { s with
        mem := t.mem
        env := { s.env with actor := k }
        producers := s.producers.set k (withCmd p
          (if xx + 1 < x + w then .pCopy src dest x y w h yy (xx + 1)
          else if yy + 1 < y + h then .pCopy src dest x y w h (yy + 1) x else .idle)) }

/-! ## Invariants every step keeps -/

/-- The state after reset is legal in every part. (Its configuration is the model's choice, log entry 3.) -/
def Obligations.ResetIsLegal : Prop := Legal State.reset

/-- Every step keeps memory in its canonical form. The form, with unlisted bytes reading 0, is the model's (log
entry 9). -/
def Obligations.StepKeepsMemoryCanonical : Prop :=
  ∀ s t : State, MemoryCanonical s → step s = .next t → MemoryCanonical t

/-- Every step keeps every FIFO within its depth (`10_state.md` R161, `44_dma_chain.md` R612: pacing prevents
overflow). -/
def Obligations.StepKeepsQueuesBounded : Prop :=
  ∀ s t : State, QueuesBounded s → step s = .next t → QueuesBounded t

/-- Every step keeps the timing state legal: no reserved timing word ever reaches TGEN (`30_encoding.md` R303). -/
def Obligations.StepKeepsTimingLegal : Prop :=
  ∀ s t : State, TimingLegal s → step s = .next t → TimingLegal t

/-- Every step keeps the scan registers legal: `display_row` in `0 .. HEIGHT`, `LINEPTR` the sentinel or the
published row (`10_state.md` R134, R138). -/
def Obligations.StepKeepsScanLegal : Prop :=
  ∀ s t : State, ScanLegal s → step s = .next t → ScanLegal t

/-- Every step keeps the pump legal: no word straddles two lines, and a half word is held exactly before an odd
pixel (`42_pixel_pump.md` R505, R507). -/
def Obligations.StepKeepsPumpLegal : Prop :=
  ∀ s t : State, PumpLegal s → step s = .next t → PumpLegal t

/-- Every step keeps the engines' enables together (`46_host_commands.md` R810, R815) and the backlight duty within
`PWM_TOP` (`10_state.md` R140). -/
def Obligations.StepKeepsEnginesLegal : Prop :=
  ∀ s t : State, EnginesLegal s → BacklightLegal s → step s = .next t → EnginesLegal t ∧ BacklightLegal t

/-- Every step keeps the DMA chain legal, and no step raises `DMA_RETRIGGER`, `FIFO_OVERFLOW` or `BUS_ERROR`, in
whatever order the agents move (`44_dma_chain.md` R610, R612). -/
def Obligations.StepKeepsChainLegal : Prop :=
  ∀ s t : State, ScanLegal s → ChainLegal s → step s = .next t → ChainLegal t ∧ dmaFaults t = dmaFaults s

/-- Every step keeps the producers' local variables legal: an `UPDATE` in its copy never stands at or above its run
end (`46_host_commands.md` R872). -/
def Obligations.StepKeepsProducersLegal : Prop :=
  ∀ s t : State, ScanLegal s → ProducersLegal s → step s = .next t → ProducersLegal t

/-- In a legal state no step is refused but a producer's own load or store of an address it may not access: every
command and every agent of the block runs (`60_exceptions.md` R902). -/
def Obligations.OnlyBadAccessesAreRefused : Prop :=
  ∀ (s : State) (r : Refusal), Legal s → step s = .refused r →
    r ∈ accessRefusals ∧ ∃ n p q, chosen s = .producer n ∧ s.producers[n]? = some p ∧ p.cmd = .idle ∧
      ((∃ a z, p.queue = .load a z :: q) ∨ (∃ a z v, p.queue = .store a z v :: q))

/-! ## Whole-machine rules -/

/-- `STATUS` is sticky (`10_state.md` R131, `60_exceptions.md` R901) and the configuration immutable
(`70_reset_and_hazards.md` R1000): no step clears a `STATUS` bit or changes the configuration. -/
def Obligations.StatusIsStickyAndConfigFixed : Prop :=
  ∀ s t : State, step s = .next t → s.regs.status &&& t.regs.status = s.regs.status ∧ t.cfg = s.cfg

/-- `20_memory.md` R217, `10_state.md` R134, R135, R138, `46_host_commands.md` R830: the shared registers' writers.
`LIVEBASE` changes only when a frame transition takes a pending buffer, `LINEPTR` and `display_row` only by DISP
or by the `INIT` that starts the block, and the vsync flag is cleared only by a frame transition. -/
def Obligations.SharedRegistersHaveOneWriter : Prop :=
  ∀ s t : State, step s = .next t →
    (t.regs.liveBase ≠ s.regs.liveBase →
      chosen s = .disp ∧ s.regs.frameF = true ∧ s.regs.frameE = true ∧ s.regs.pendValid = true ∧
        t.regs.liveBase = s.regs.pendAddr ∧ t.regs.pendValid = false) ∧
    (t.regs.linePtr ≠ s.regs.linePtr ∨ t.regs.displayRow ≠ s.regs.displayRow →
      chosen s = .disp ∨ (s.regs.run = false ∧ t.regs.run = true ∧ t.regs.linePtr = s.regs.liveBase ∧
        t.regs.displayRow = 0)) ∧
    (s.regs.vsWait = true → t.regs.vsWait = false →
      chosen s = .disp ∧ s.regs.run = true ∧ s.regs.frameF = true ∧ s.regs.frameE = true ∧
        t.regs.frameF = false ∧ t.regs.displayRow = 0 ∧ t.regs.linePtr = t.regs.liveBase)

/-- `20_memory.md` R201, `44_dma_chain.md` R612, R640, R650: every channel stores to a port or a trigger alias, so
only a producer's step writes memory while the chain is legal; the block's own agents never do. -/
def Obligations.OnlyProducersWriteMemory : Prop :=
  ∀ s t : State, ScanLegal s → ChainLegal s → step s = .next t → (∀ n, chosen s ≠ .producer n) →
    SameBytes s t
end

