-- ==== Sys2Proof/Laws/State.lean ====
section
/-! SUPPORT. One lemma for each field of the state that a named update leaves alone, so that no later proof
unfolds the update. -/

namespace Sys2Proof.Laws

open Sys2Proof.Machine

@[simp] theorem raise_cfg (c : Code) (s : State) : (raise c s).cfg = s.cfg := rfl
@[simp] theorem raise_tseq (c : Code) (s : State) : (raise c s).tseq = s.tseq := rfl
@[simp] theorem raise_tgen (c : Code) (s : State) : (raise c s).tgen = s.tgen := rfl
@[simp] theorem raise_pump (c : Code) (s : State) : (raise c s).pump = s.pump := rfl
@[simp] theorem raise_plu (c : Code) (s : State) : (raise c s).plu = s.plu := rfl
@[simp] theorem raise_dma (c : Code) (s : State) : (raise c s).dma = s.dma := rfl
@[simp] theorem raise_mem (c : Code) (s : State) : (raise c s).mem = s.mem := rfl
@[simp] theorem raise_producers (c : Code) (s : State) : (raise c s).producers = s.producers := rfl
@[simp] theorem raise_env (c : Code) (s : State) : (raise c s).env = s.env := rfl

@[simp] theorem refuse_cfg (c : Code) (s : State) : (refuse c s).cfg = s.cfg := rfl
@[simp] theorem refuse_tseq (c : Code) (s : State) : (refuse c s).tseq = s.tseq := rfl
@[simp] theorem refuse_tgen (c : Code) (s : State) : (refuse c s).tgen = s.tgen := rfl
@[simp] theorem refuse_pump (c : Code) (s : State) : (refuse c s).pump = s.pump := rfl
@[simp] theorem refuse_plu (c : Code) (s : State) : (refuse c s).plu = s.plu := rfl
@[simp] theorem refuse_dma (c : Code) (s : State) : (refuse c s).dma = s.dma := rfl
@[simp] theorem refuse_mem (c : Code) (s : State) : (refuse c s).mem = s.mem := rfl
@[simp] theorem refuse_producers (c : Code) (s : State) : (refuse c s).producers = s.producers := rfl
@[simp] theorem refuse_env (c : Code) (s : State) : (refuse c s).env = s.env := rfl

@[simp] theorem fatalStop_cfg (s : State) : (fatalStop s).cfg = s.cfg := rfl
@[simp] theorem fatalStop_tseq (s : State) : (fatalStop s).tseq = s.tseq := rfl
@[simp] theorem fatalStop_tgen (s : State) : (fatalStop s).tgen = s.tgen := rfl
@[simp] theorem fatalStop_pump (s : State) : (fatalStop s).pump = s.pump := rfl
@[simp] theorem fatalStop_plu (s : State) : (fatalStop s).plu = s.plu := rfl
@[simp] theorem fatalStop_dma (s : State) : (fatalStop s).dma = s.dma := rfl
@[simp] theorem fatalStop_mem (s : State) : (fatalStop s).mem = s.mem := rfl
@[simp] theorem fatalStop_producers (s : State) : (fatalStop s).producers = s.producers := rfl
@[simp] theorem fatalStop_env (s : State) : (fatalStop s).env = s.env := rfl

@[simp] theorem raiseIf_cfg (b : Bool) (c : Code) (s : State) : (raiseIf b c s).cfg = s.cfg := by cases b <;> rfl
@[simp] theorem raiseIf_tseq (b : Bool) (c : Code) (s : State) : (raiseIf b c s).tseq = s.tseq := by cases b <;> rfl
@[simp] theorem raiseIf_tgen (b : Bool) (c : Code) (s : State) : (raiseIf b c s).tgen = s.tgen := by cases b <;> rfl
@[simp] theorem raiseIf_pump (b : Bool) (c : Code) (s : State) : (raiseIf b c s).pump = s.pump := by cases b <;> rfl
@[simp] theorem raiseIf_plu (b : Bool) (c : Code) (s : State) : (raiseIf b c s).plu = s.plu := by cases b <;> rfl
@[simp] theorem raiseIf_dma (b : Bool) (c : Code) (s : State) : (raiseIf b c s).dma = s.dma := by cases b <;> rfl
@[simp] theorem raiseIf_mem (b : Bool) (c : Code) (s : State) : (raiseIf b c s).mem = s.mem := by cases b <;> rfl
@[simp] theorem raiseIf_producers (b : Bool) (c : Code) (s : State) : (raiseIf b c s).producers = s.producers := by cases b <;> rfl
@[simp] theorem raiseIf_env (b : Bool) (c : Code) (s : State) : (raiseIf b c s).env = s.env := by cases b <;> rfl

@[simp] theorem setChan_cfg (s : State) (n : ChanId) (x : Channel) : (s.setChan n x).cfg = s.cfg := rfl
@[simp] theorem setChan_tseq (s : State) (n : ChanId) (x : Channel) : (s.setChan n x).tseq = s.tseq := rfl
@[simp] theorem setChan_tgen (s : State) (n : ChanId) (x : Channel) : (s.setChan n x).tgen = s.tgen := rfl
@[simp] theorem setChan_pump (s : State) (n : ChanId) (x : Channel) : (s.setChan n x).pump = s.pump := rfl
@[simp] theorem setChan_plu (s : State) (n : ChanId) (x : Channel) : (s.setChan n x).plu = s.plu := rfl
@[simp] theorem setChan_regs (s : State) (n : ChanId) (x : Channel) : (s.setChan n x).regs = s.regs := rfl
@[simp] theorem setChan_mem (s : State) (n : ChanId) (x : Channel) : (s.setChan n x).mem = s.mem := rfl
@[simp] theorem setChan_producers (s : State) (n : ChanId) (x : Channel) : (s.setChan n x).producers = s.producers := rfl
@[simp] theorem setChan_env (s : State) (n : ChanId) (x : Channel) : (s.setChan n x).env = s.env := rfl

@[simp] theorem abort_cfg (n : ChanId) (s : State) : (abort n s).cfg = s.cfg := rfl
@[simp] theorem abort_tseq (n : ChanId) (s : State) : (abort n s).tseq = s.tseq := rfl
@[simp] theorem abort_tgen (n : ChanId) (s : State) : (abort n s).tgen = s.tgen := rfl
@[simp] theorem abort_pump (n : ChanId) (s : State) : (abort n s).pump = s.pump := rfl
@[simp] theorem abort_plu (n : ChanId) (s : State) : (abort n s).plu = s.plu := rfl
@[simp] theorem abort_regs (n : ChanId) (s : State) : (abort n s).regs = s.regs := rfl
@[simp] theorem abort_mem (n : ChanId) (s : State) : (abort n s).mem = s.mem := rfl
@[simp] theorem abort_producers (n : ChanId) (s : State) : (abort n s).producers = s.producers := rfl
@[simp] theorem abort_env (n : ChanId) (s : State) : (abort n s).env = s.env := rfl

@[simp] theorem setProducer_cfg (s : State) (n : Nat) (p : Producer) : (s.setProducer n p).cfg = s.cfg := rfl
@[simp] theorem setProducer_tseq (s : State) (n : Nat) (p : Producer) : (s.setProducer n p).tseq = s.tseq := rfl
@[simp] theorem setProducer_tgen (s : State) (n : Nat) (p : Producer) : (s.setProducer n p).tgen = s.tgen := rfl
@[simp] theorem setProducer_pump (s : State) (n : Nat) (p : Producer) : (s.setProducer n p).pump = s.pump := rfl
@[simp] theorem setProducer_plu (s : State) (n : Nat) (p : Producer) : (s.setProducer n p).plu = s.plu := rfl
@[simp] theorem setProducer_dma (s : State) (n : Nat) (p : Producer) : (s.setProducer n p).dma = s.dma := rfl
@[simp] theorem setProducer_regs (s : State) (n : Nat) (p : Producer) : (s.setProducer n p).regs = s.regs := rfl
@[simp] theorem setProducer_mem (s : State) (n : Nat) (p : Producer) : (s.setProducer n p).mem = s.mem := rfl
@[simp] theorem setProducer_env (s : State) (n : Nat) (p : Producer) : (s.setProducer n p).env = s.env := rfl

@[simp] theorem setCmd_cfg (s : State) (c : Cmd) : (s.setCmd c).cfg = s.cfg := by unfold State.setCmd; split <;> rfl
@[simp] theorem setCmd_tseq (s : State) (c : Cmd) : (s.setCmd c).tseq = s.tseq := by unfold State.setCmd; split <;> rfl
@[simp] theorem setCmd_tgen (s : State) (c : Cmd) : (s.setCmd c).tgen = s.tgen := by unfold State.setCmd; split <;> rfl
@[simp] theorem setCmd_pump (s : State) (c : Cmd) : (s.setCmd c).pump = s.pump := by unfold State.setCmd; split <;> rfl
@[simp] theorem setCmd_plu (s : State) (c : Cmd) : (s.setCmd c).plu = s.plu := by unfold State.setCmd; split <;> rfl
@[simp] theorem setCmd_dma (s : State) (c : Cmd) : (s.setCmd c).dma = s.dma := by unfold State.setCmd; split <;> rfl
@[simp] theorem setCmd_regs (s : State) (c : Cmd) : (s.setCmd c).regs = s.regs := by unfold State.setCmd; split <;> rfl
@[simp] theorem setCmd_mem (s : State) (c : Cmd) : (s.setCmd c).mem = s.mem := by unfold State.setCmd; split <;> rfl
@[simp] theorem setCmd_env (s : State) (c : Cmd) : (s.setCmd c).env = s.env := by unfold State.setCmd; split <;> rfl

@[simp] theorem withActor_cfg (s : State) (n : Nat) : (s.withActor n).cfg = s.cfg := rfl
@[simp] theorem withActor_tseq (s : State) (n : Nat) : (s.withActor n).tseq = s.tseq := rfl
@[simp] theorem withActor_tgen (s : State) (n : Nat) : (s.withActor n).tgen = s.tgen := rfl
@[simp] theorem withActor_pump (s : State) (n : Nat) : (s.withActor n).pump = s.pump := rfl
@[simp] theorem withActor_plu (s : State) (n : Nat) : (s.withActor n).plu = s.plu := rfl
@[simp] theorem withActor_dma (s : State) (n : Nat) : (s.withActor n).dma = s.dma := rfl
@[simp] theorem withActor_regs (s : State) (n : Nat) : (s.withActor n).regs = s.regs := rfl
@[simp] theorem withActor_mem (s : State) (n : Nat) : (s.withActor n).mem = s.mem := rfl
@[simp] theorem withActor_producers (s : State) (n : Nat) : (s.withActor n).producers = s.producers := rfl

@[simp] theorem drawn_cfg (s : State) : (drawn s).cfg = s.cfg := rfl
@[simp] theorem drawn_tseq (s : State) : (drawn s).tseq = s.tseq := rfl
@[simp] theorem drawn_tgen (s : State) : (drawn s).tgen = s.tgen := rfl
@[simp] theorem drawn_pump (s : State) : (drawn s).pump = s.pump := rfl
@[simp] theorem drawn_plu (s : State) : (drawn s).plu = s.plu := rfl
@[simp] theorem drawn_dma (s : State) : (drawn s).dma = s.dma := rfl
@[simp] theorem drawn_regs (s : State) : (drawn s).regs = s.regs := rfl
@[simp] theorem drawn_mem (s : State) : (drawn s).mem = s.mem := rfl
@[simp] theorem drawn_producers (s : State) : (drawn s).producers = s.producers := rfl

@[simp] theorem takeTurn_cfg (s : State) : (takeTurn s).cfg = s.cfg := rfl
@[simp] theorem takeTurn_tseq (s : State) : (takeTurn s).tseq = s.tseq := rfl
@[simp] theorem takeTurn_tgen (s : State) : (takeTurn s).tgen = s.tgen := rfl
@[simp] theorem takeTurn_pump (s : State) : (takeTurn s).pump = s.pump := rfl
@[simp] theorem takeTurn_plu (s : State) : (takeTurn s).plu = s.plu := rfl
@[simp] theorem takeTurn_dma (s : State) : (takeTurn s).dma = s.dma := rfl
@[simp] theorem takeTurn_regs (s : State) : (takeTurn s).regs = s.regs := rfl
@[simp] theorem takeTurn_mem (s : State) : (takeTurn s).mem = s.mem := rfl
@[simp] theorem takeTurn_producers (s : State) : (takeTurn s).producers = s.producers := rfl

@[simp] theorem emitTrace_cfg (s : State) : (emitTrace s).cfg = s.cfg := rfl
@[simp] theorem emitTrace_tseq (s : State) : (emitTrace s).tseq = s.tseq := rfl
@[simp] theorem emitTrace_tgen (s : State) : (emitTrace s).tgen = s.tgen := rfl
@[simp] theorem emitTrace_pump (s : State) : (emitTrace s).pump = s.pump := rfl
@[simp] theorem emitTrace_plu (s : State) : (emitTrace s).plu = s.plu := rfl
@[simp] theorem emitTrace_dma (s : State) : (emitTrace s).dma = s.dma := rfl
@[simp] theorem emitTrace_regs (s : State) : (emitTrace s).regs = s.regs := rfl
@[simp] theorem emitTrace_mem (s : State) : (emitTrace s).mem = s.mem := rfl
@[simp] theorem emitTrace_producers (s : State) : (emitTrace s).producers = s.producers := rfl

@[simp] theorem pumpIdleOutput_cfg (s : State) : (pumpIdleOutput s).cfg = s.cfg := rfl
@[simp] theorem pumpIdleOutput_tseq (s : State) : (pumpIdleOutput s).tseq = s.tseq := rfl
@[simp] theorem pumpIdleOutput_tgen (s : State) : (pumpIdleOutput s).tgen = s.tgen := rfl
@[simp] theorem pumpIdleOutput_plu (s : State) : (pumpIdleOutput s).plu = s.plu := rfl
@[simp] theorem pumpIdleOutput_dma (s : State) : (pumpIdleOutput s).dma = s.dma := rfl
@[simp] theorem pumpIdleOutput_regs (s : State) : (pumpIdleOutput s).regs = s.regs := rfl
@[simp] theorem pumpIdleOutput_mem (s : State) : (pumpIdleOutput s).mem = s.mem := rfl
@[simp] theorem pumpIdleOutput_producers (s : State) : (pumpIdleOutput s).producers = s.producers := rfl
@[simp] theorem pumpIdleOutput_env (s : State) : (pumpIdleOutput s).env = s.env := rfl

@[simp] theorem pumpStart_cfg (s : State) : (pumpStart s).cfg = s.cfg := rfl
@[simp] theorem pumpStart_tseq (s : State) : (pumpStart s).tseq = s.tseq := rfl
@[simp] theorem pumpStart_tgen (s : State) : (pumpStart s).tgen = s.tgen := rfl
@[simp] theorem pumpStart_plu (s : State) : (pumpStart s).plu = s.plu := rfl
@[simp] theorem pumpStart_dma (s : State) : (pumpStart s).dma = s.dma := rfl
@[simp] theorem pumpStart_mem (s : State) : (pumpStart s).mem = s.mem := rfl
@[simp] theorem pumpStart_producers (s : State) : (pumpStart s).producers = s.producers := rfl
@[simp] theorem pumpStart_env (s : State) : (pumpStart s).env = s.env := rfl

@[simp] theorem pumpEmit_cfg (s : State) : (pumpEmit s).cfg = s.cfg := by unfold pumpEmit; split <;> rfl
@[simp] theorem pumpEmit_tseq (s : State) : (pumpEmit s).tseq = s.tseq := by unfold pumpEmit; split <;> rfl
@[simp] theorem pumpEmit_tgen (s : State) : (pumpEmit s).tgen = s.tgen := by unfold pumpEmit; split <;> rfl
@[simp] theorem pumpEmit_plu (s : State) : (pumpEmit s).plu = s.plu := by unfold pumpEmit; split <;> rfl
@[simp] theorem pumpEmit_dma (s : State) : (pumpEmit s).dma = s.dma := by unfold pumpEmit; split <;> rfl
@[simp] theorem pumpEmit_mem (s : State) : (pumpEmit s).mem = s.mem := by unfold pumpEmit; split <;> rfl
@[simp] theorem pumpEmit_producers (s : State) : (pumpEmit s).producers = s.producers := by unfold pumpEmit; split <;> rfl
@[simp] theorem pumpEmit_env (s : State) : (pumpEmit s).env = s.env := by unfold pumpEmit; split <;> rfl

@[simp] theorem pumpCycle_cfg (b : Bool) (s : State) : (pumpCycle b s).cfg = s.cfg := by unfold pumpCycle; simp only []; split_ifs <;> simp
@[simp] theorem pumpCycle_tseq (b : Bool) (s : State) : (pumpCycle b s).tseq = s.tseq := by unfold pumpCycle; simp only []; split_ifs <;> simp
@[simp] theorem pumpCycle_tgen (b : Bool) (s : State) : (pumpCycle b s).tgen = s.tgen := by unfold pumpCycle; simp only []; split_ifs <;> simp
@[simp] theorem pumpCycle_plu (b : Bool) (s : State) : (pumpCycle b s).plu = s.plu := by unfold pumpCycle; simp only []; split_ifs <;> simp
@[simp] theorem pumpCycle_dma (b : Bool) (s : State) : (pumpCycle b s).dma = s.dma := by unfold pumpCycle; simp only []; split_ifs <;> simp
@[simp] theorem pumpCycle_mem (b : Bool) (s : State) : (pumpCycle b s).mem = s.mem := by unfold pumpCycle; simp only []; split_ifs <;> simp
@[simp] theorem pumpCycle_producers (b : Bool) (s : State) : (pumpCycle b s).producers = s.producers := by unfold pumpCycle; simp only []; split_ifs <;> simp
@[simp] theorem pumpCycle_env (b : Bool) (s : State) : (pumpCycle b s).env = s.env := by unfold pumpCycle; simp only []; split_ifs <;> simp

@[simp] theorem deliver_cfg (k : Trig) (s : State) : (deliver k s).cfg = s.cfg := by cases k <;> simp [deliver]
@[simp] theorem deliver_tseq (k : Trig) (s : State) : (deliver k s).tseq = s.tseq := by cases k <;> simp [deliver]
@[simp] theorem deliver_tgen (k : Trig) (s : State) : (deliver k s).tgen = s.tgen := by cases k <;> simp [deliver]
@[simp] theorem deliver_pump (k : Trig) (s : State) : (deliver k s).pump = s.pump := by cases k <;> simp [deliver]
@[simp] theorem deliver_plu (k : Trig) (s : State) : (deliver k s).plu = s.plu := by cases k <;> simp [deliver]
@[simp] theorem deliver_dma (k : Trig) (s : State) : (deliver k s).dma = s.dma := by cases k <;> simp [deliver]
@[simp] theorem deliver_mem (k : Trig) (s : State) : (deliver k s).mem = s.mem := by cases k <;> simp [deliver]
@[simp] theorem deliver_producers (k : Trig) (s : State) : (deliver k s).producers = s.producers := by cases k <;> simp [deliver]
@[simp] theorem deliver_env (k : Trig) (s : State) : (deliver k s).env = s.env := by cases k <;> simp [deliver]

@[simp] theorem wordTick_cfg (k : Trig) (n : BitVec 16) (hs vs : Bool) (s : State) : (wordTick k n hs vs s).cfg = s.cfg := by unfold wordTick; simp only []; split_ifs <;> simp
@[simp] theorem wordTick_tseq (k : Trig) (n : BitVec 16) (hs vs : Bool) (s : State) : (wordTick k n hs vs s).tseq = s.tseq := by unfold wordTick; simp only []; split_ifs <;> simp
@[simp] theorem wordTick_plu (k : Trig) (n : BitVec 16) (hs vs : Bool) (s : State) : (wordTick k n hs vs s).plu = s.plu := by unfold wordTick; simp only []; split_ifs <;> simp
@[simp] theorem wordTick_dma (k : Trig) (n : BitVec 16) (hs vs : Bool) (s : State) : (wordTick k n hs vs s).dma = s.dma := by unfold wordTick; simp only []; split_ifs <;> simp
@[simp] theorem wordTick_mem (k : Trig) (n : BitVec 16) (hs vs : Bool) (s : State) : (wordTick k n hs vs s).mem = s.mem := by unfold wordTick; simp only []; split_ifs <;> simp
@[simp] theorem wordTick_producers (k : Trig) (n : BitVec 16) (hs vs : Bool) (s : State) : (wordTick k n hs vs s).producers = s.producers := by unfold wordTick; simp only []; split_ifs <;> simp

@[simp] theorem stallTick_cfg (s : State) : (stallTick s).cfg = s.cfg := by simp [stallTick]
@[simp] theorem stallTick_tseq (s : State) : (stallTick s).tseq = s.tseq := by simp [stallTick]
@[simp] theorem stallTick_tgen (s : State) : (stallTick s).tgen = s.tgen := by simp [stallTick]
@[simp] theorem stallTick_plu (s : State) : (stallTick s).plu = s.plu := by simp [stallTick]
@[simp] theorem stallTick_dma (s : State) : (stallTick s).dma = s.dma := by simp [stallTick]
@[simp] theorem stallTick_mem (s : State) : (stallTick s).mem = s.mem := by simp [stallTick]
@[simp] theorem stallTick_producers (s : State) : (stallTick s).producers = s.producers := by simp [stallTick]

@[simp] theorem tseqStep_cfg (s : State) : (tseqStep s).cfg = s.cfg := rfl
@[simp] theorem tseqStep_pump (s : State) : (tseqStep s).pump = s.pump := rfl
@[simp] theorem tseqStep_plu (s : State) : (tseqStep s).plu = s.plu := rfl
@[simp] theorem tseqStep_dma (s : State) : (tseqStep s).dma = s.dma := rfl
@[simp] theorem tseqStep_regs (s : State) : (tseqStep s).regs = s.regs := rfl
@[simp] theorem tseqStep_mem (s : State) : (tseqStep s).mem = s.mem := rfl
@[simp] theorem tseqStep_producers (s : State) : (tseqStep s).producers = s.producers := rfl
@[simp] theorem tseqStep_env (s : State) : (tseqStep s).env = s.env := rfl

@[simp] theorem tgenStartStep_cfg (s : State) : (tgenStartStep s).cfg = s.cfg := rfl
@[simp] theorem tgenStartStep_tseq (s : State) : (tgenStartStep s).tseq = s.tseq := rfl
@[simp] theorem tgenStartStep_pump (s : State) : (tgenStartStep s).pump = s.pump := rfl
@[simp] theorem tgenStartStep_plu (s : State) : (tgenStartStep s).plu = s.plu := rfl
@[simp] theorem tgenStartStep_dma (s : State) : (tgenStartStep s).dma = s.dma := rfl
@[simp] theorem tgenStartStep_regs (s : State) : (tgenStartStep s).regs = s.regs := rfl
@[simp] theorem tgenStartStep_mem (s : State) : (tgenStartStep s).mem = s.mem := rfl
@[simp] theorem tgenStartStep_producers (s : State) : (tgenStartStep s).producers = s.producers := rfl
@[simp] theorem tgenStartStep_env (s : State) : (tgenStartStep s).env = s.env := rfl

@[simp] theorem pluStep_cfg (s : State) : (pluStep s).cfg = s.cfg := rfl
@[simp] theorem pluStep_tseq (s : State) : (pluStep s).tseq = s.tseq := rfl
@[simp] theorem pluStep_tgen (s : State) : (pluStep s).tgen = s.tgen := rfl
@[simp] theorem pluStep_pump (s : State) : (pluStep s).pump = s.pump := rfl
@[simp] theorem pluStep_dma (s : State) : (pluStep s).dma = s.dma := rfl
@[simp] theorem pluStep_regs (s : State) : (pluStep s).regs = s.regs := rfl
@[simp] theorem pluStep_mem (s : State) : (pluStep s).mem = s.mem := rfl
@[simp] theorem pluStep_producers (s : State) : (pluStep s).producers = s.producers := rfl
@[simp] theorem pluStep_env (s : State) : (pluStep s).env = s.env := rfl

@[simp] theorem lineTransition_cfg (s : State) : (lineTransition s).cfg = s.cfg := rfl
@[simp] theorem lineTransition_tseq (s : State) : (lineTransition s).tseq = s.tseq := rfl
@[simp] theorem lineTransition_tgen (s : State) : (lineTransition s).tgen = s.tgen := rfl
@[simp] theorem lineTransition_pump (s : State) : (lineTransition s).pump = s.pump := rfl
@[simp] theorem lineTransition_plu (s : State) : (lineTransition s).plu = s.plu := rfl
@[simp] theorem lineTransition_dma (s : State) : (lineTransition s).dma = s.dma := rfl
@[simp] theorem lineTransition_mem (s : State) : (lineTransition s).mem = s.mem := rfl
@[simp] theorem lineTransition_producers (s : State) : (lineTransition s).producers = s.producers := rfl
@[simp] theorem lineTransition_env (s : State) : (lineTransition s).env = s.env := rfl

@[simp] theorem frameQuiesce_cfg (s : State) : (frameQuiesce s).cfg = s.cfg := by unfold frameQuiesce; simp only []; split <;> rfl
@[simp] theorem frameQuiesce_tseq (s : State) : (frameQuiesce s).tseq = s.tseq := by unfold frameQuiesce; simp only []; split <;> rfl
@[simp] theorem frameQuiesce_tgen (s : State) : (frameQuiesce s).tgen = s.tgen := by unfold frameQuiesce; simp only []; split <;> rfl
@[simp] theorem frameQuiesce_regs (s : State) : (frameQuiesce s).regs = s.regs := by unfold frameQuiesce; simp only []; split <;> rfl
@[simp] theorem frameQuiesce_mem (s : State) : (frameQuiesce s).mem = s.mem := by unfold frameQuiesce; simp only []; split <;> rfl
@[simp] theorem frameQuiesce_producers (s : State) : (frameQuiesce s).producers = s.producers := by unfold frameQuiesce; simp only []; split <;> rfl
@[simp] theorem frameQuiesce_env (s : State) : (frameQuiesce s).env = s.env := by unfold frameQuiesce; simp only []; split <;> rfl

@[simp] theorem pushPf_cfg (s : State) (v : Word) : (pushPf s v).cfg = s.cfg := by unfold pushPf; split <;> rfl
@[simp] theorem pushPf_tseq (s : State) (v : Word) : (pushPf s v).tseq = s.tseq := by unfold pushPf; split <;> rfl
@[simp] theorem pushPf_tgen (s : State) (v : Word) : (pushPf s v).tgen = s.tgen := by unfold pushPf; split <;> rfl
@[simp] theorem pushPf_plu (s : State) (v : Word) : (pushPf s v).plu = s.plu := by unfold pushPf; split <;> rfl
@[simp] theorem pushPf_dma (s : State) (v : Word) : (pushPf s v).dma = s.dma := by unfold pushPf; split <;> rfl
@[simp] theorem pushPf_mem (s : State) (v : Word) : (pushPf s v).mem = s.mem := by unfold pushPf; split <;> rfl
@[simp] theorem pushPf_producers (s : State) (v : Word) : (pushPf s v).producers = s.producers := by unfold pushPf; split <;> rfl
@[simp] theorem pushPf_env (s : State) (v : Word) : (pushPf s v).env = s.env := by unfold pushPf; split <;> rfl

@[simp] theorem pushPli_cfg (s : State) (v : Word) : (pushPli s v).cfg = s.cfg := by unfold pushPli; split <;> rfl
@[simp] theorem pushPli_tseq (s : State) (v : Word) : (pushPli s v).tseq = s.tseq := by unfold pushPli; split <;> rfl
@[simp] theorem pushPli_tgen (s : State) (v : Word) : (pushPli s v).tgen = s.tgen := by unfold pushPli; split <;> rfl
@[simp] theorem pushPli_pump (s : State) (v : Word) : (pushPli s v).pump = s.pump := by unfold pushPli; split <;> rfl
@[simp] theorem pushPli_dma (s : State) (v : Word) : (pushPli s v).dma = s.dma := by unfold pushPli; split <;> rfl
@[simp] theorem pushPli_mem (s : State) (v : Word) : (pushPli s v).mem = s.mem := by unfold pushPli; split <;> rfl
@[simp] theorem pushPli_producers (s : State) (v : Word) : (pushPli s v).producers = s.producers := by unfold pushPli; split <;> rfl
@[simp] theorem pushPli_env (s : State) (v : Word) : (pushPli s v).env = s.env := by unfold pushPli; split <;> rfl

@[simp] theorem portStore_cfg (s : State) (o : Nat) (v : Word) : (portStore s o v).cfg = s.cfg := by unfold portStore; split_ifs <;> simp
@[simp] theorem portStore_tseq (s : State) (o : Nat) (v : Word) : (portStore s o v).tseq = s.tseq := by unfold portStore; split_ifs <;> simp
@[simp] theorem portStore_tgen (s : State) (o : Nat) (v : Word) : (portStore s o v).tgen = s.tgen := by unfold portStore; split_ifs <;> simp
@[simp] theorem portStore_dma (s : State) (o : Nat) (v : Word) : (portStore s o v).dma = s.dma := by unfold portStore; split_ifs <;> simp
@[simp] theorem portStore_mem (s : State) (o : Nat) (v : Word) : (portStore s o v).mem = s.mem := by unfold portStore; split_ifs <;> simp
@[simp] theorem portStore_producers (s : State) (o : Nat) (v : Word) : (portStore s o v).producers = s.producers := by unfold portStore; split_ifs <;> simp
@[simp] theorem portStore_env (s : State) (o : Nat) (v : Word) : (portStore s o v).env = s.env := by unfold portStore; split_ifs <;> simp

@[simp] theorem badLoad_cfg (s : State) : (badLoad s).2.cfg = s.cfg := rfl
@[simp] theorem badLoad_tseq (s : State) : (badLoad s).2.tseq = s.tseq := rfl
@[simp] theorem badLoad_tgen (s : State) : (badLoad s).2.tgen = s.tgen := rfl
@[simp] theorem badLoad_pump (s : State) : (badLoad s).2.pump = s.pump := rfl
@[simp] theorem badLoad_plu (s : State) : (badLoad s).2.plu = s.plu := rfl
@[simp] theorem badLoad_dma (s : State) : (badLoad s).2.dma = s.dma := rfl
@[simp] theorem badLoad_mem (s : State) : (badLoad s).2.mem = s.mem := rfl
@[simp] theorem badLoad_producers (s : State) : (badLoad s).2.producers = s.producers := rfl
@[simp] theorem badLoad_env (s : State) : (badLoad s).2.env = s.env := rfl

@[simp] theorem popPlo_cfg (s : State) : (popPlo s).2.cfg = s.cfg := by unfold popPlo; split <;> rfl
@[simp] theorem popPlo_tseq (s : State) : (popPlo s).2.tseq = s.tseq := by unfold popPlo; split <;> rfl
@[simp] theorem popPlo_tgen (s : State) : (popPlo s).2.tgen = s.tgen := by unfold popPlo; split <;> rfl
@[simp] theorem popPlo_pump (s : State) : (popPlo s).2.pump = s.pump := by unfold popPlo; split <;> rfl
@[simp] theorem popPlo_dma (s : State) : (popPlo s).2.dma = s.dma := by unfold popPlo; split <;> rfl
@[simp] theorem popPlo_mem (s : State) : (popPlo s).2.mem = s.mem := by unfold popPlo; split <;> rfl
@[simp] theorem popPlo_producers (s : State) : (popPlo s).2.producers = s.producers := by unfold popPlo; split <;> rfl
@[simp] theorem popPlo_env (s : State) : (popPlo s).2.env = s.env := by unfold popPlo; split <;> rfl

@[simp] theorem dmaLoad_cfg (s : State) (a : Word) : (dmaLoad s a).2.cfg = s.cfg := by unfold dmaLoad; split_ifs <;> [simp; (split <;> (try split_ifs) <;> simp)]
@[simp] theorem dmaLoad_tseq (s : State) (a : Word) : (dmaLoad s a).2.tseq = s.tseq := by unfold dmaLoad; split_ifs <;> [simp; (split <;> (try split_ifs) <;> simp)]
@[simp] theorem dmaLoad_tgen (s : State) (a : Word) : (dmaLoad s a).2.tgen = s.tgen := by unfold dmaLoad; split_ifs <;> [simp; (split <;> (try split_ifs) <;> simp)]
@[simp] theorem dmaLoad_pump (s : State) (a : Word) : (dmaLoad s a).2.pump = s.pump := by unfold dmaLoad; split_ifs <;> [simp; (split <;> (try split_ifs) <;> simp)]
@[simp] theorem dmaLoad_dma (s : State) (a : Word) : (dmaLoad s a).2.dma = s.dma := by unfold dmaLoad; split_ifs <;> [simp; (split <;> (try split_ifs) <;> simp)]
@[simp] theorem dmaLoad_mem (s : State) (a : Word) : (dmaLoad s a).2.mem = s.mem := by unfold dmaLoad; split_ifs <;> [simp; (split <;> (try split_ifs) <;> simp)]
@[simp] theorem dmaLoad_producers (s : State) (a : Word) : (dmaLoad s a).2.producers = s.producers := by unfold dmaLoad; split_ifs <;> [simp; (split <;> (try split_ifs) <;> simp)]
@[simp] theorem dmaLoad_env (s : State) (a : Word) : (dmaLoad s a).2.env = s.env := by unfold dmaLoad; split_ifs <;> [simp; (split <;> (try split_ifs) <;> simp)]

/-! What the updates do to the registers. -/

@[simp] theorem raise_regs (c : Code) (s : State) :
    (raise c s).regs = { s.regs with status := s.regs.status ||| c.mask } := rfl

@[simp] theorem raiseIf_false (c : Code) (s : State) : raiseIf false c s = s := rfl

@[simp] theorem raiseIf_true (c : Code) (s : State) : raiseIf true c s = raise c s := rfl

/-- Raising a code changes the status register only. -/
theorem raiseIf_regs (b : Bool) (c : Code) (s : State) :
    (raiseIf b c s).regs = { s.regs with status := (raiseIf b c s).regs.status } := by cases b <;> rfl

@[simp] theorem get_set_self (d : Channels) (n : ChanId) (x : Channel) : (d.set n x).get n = x := by
  cases n <;> rfl

theorem get_set_ne (d : Channels) {n m : ChanId} (x : Channel) (h : m ≠ n) : (d.set n x).get m = d.get m := by
  cases n <;> cases m <;> first | rfl | exact absurd rfl h

@[simp] theorem chan_setChan_self (s : State) (n : ChanId) (x : Channel) : (s.setChan n x).chan n = x :=
  get_set_self s.dma n x

theorem chan_setChan_ne (s : State) {n m : ChanId} (x : Channel) (h : m ≠ n) :
    (s.setChan n x).chan m = s.chan m := get_set_ne s.dma x h

@[simp] theorem chan_raise (c : Code) (s : State) (n : ChanId) : (raise c s).chan n = s.chan n := rfl

@[simp] theorem chan_raiseIf (b : Bool) (c : Code) (s : State) (n : ChanId) :
    (raiseIf b c s).chan n = s.chan n := by cases b <;> rfl

@[simp] theorem chan_dmaLoad (s : State) (a : Word) (n : ChanId) : (dmaLoad s a).2.chan n = s.chan n := by
  unfold State.chan; rw [dmaLoad_dma]

end Sys2Proof.Laws
end

