-- ==== Sys2Proof/Laws/Memory.lean ====
section
/-! SUPPORT. The laws of memory: a read after a write, the canonical form, and what the wider accesses read
and leave (`20_memory.md` R203). -/

namespace Sys2Proof.Laws

open Sys2Proof.Machine

/-! ## One byte -/

/-- Weakening the lower bound of the canonical form. -/
theorem wfFrom_mono {m : List Host.Cell} {lo hi : Nat} (h : lo ≤ hi) (hw : Memory.wfFrom hi m = true) :
    Memory.wfFrom lo m = true := by
  cases m with
  | nil => rfl
  | cons c m =>
    simp only [Memory.wfFrom, Bool.and_eq_true, decide_eq_true_eq] at hw ⊢
    exact ⟨⟨by omega, hw.1.2⟩, hw.2⟩

/-- A canonical memory reads as nothing below its lowest address. -/
theorem read_below {m : List Host.Cell} {lo a : Nat} (hw : Memory.wfFrom lo m = true) (ha : a < lo) :
    Memory.read m a = unlistedByte := by
  induction m generalizing lo with
  | nil => rfl
  | cons c m ih =>
    simp only [Memory.wfFrom, Bool.and_eq_true, decide_eq_true_eq] at hw
    simp only [Memory.read, if_neg (show ¬c.1 = a by omega)]
    exact ih hw.2 (by omega)

/-- A write leaves every other byte as it was, canonical form or not. -/
theorem read_write_ne (m : List Host.Cell) {a b : Nat} (v : Byte) (h : b ≠ a) :
    Memory.read (Memory.write m a v) b = Memory.read m b := by
  induction m with
  | nil =>
    simp only [Memory.write]
    split
    · rfl
    · simp [Memory.read, Ne.symm h]
  | cons c m ih =>
    simp only [Memory.write]
    split
    · split
      · rfl
      · simp [Memory.read, Ne.symm h]
    · split
      · rename_i hab
        split <;> simp [Memory.read, Ne.symm h, ← hab]
      · simp only [Memory.read, ih]

/-- A read after a write to the same byte, from any lower bound. -/
theorem read_write_self_from {m : List Host.Cell} {lo a : Nat} (v : Byte) (hw : Memory.wfFrom lo m = true) :
    Memory.read (Memory.write m a v) a = v := by
  induction m generalizing lo with
  | nil =>
    simp only [Memory.write]
    split
    · rename_i h; simp [Memory.read, h]
    · simp [Memory.read]
  | cons c m ih =>
    simp only [Memory.wfFrom, Bool.and_eq_true, decide_eq_true_eq] at hw
    simp only [Memory.write]
    split
    · split
      · rename_i h1 h2
        simp only [Memory.read, if_neg (show ¬c.1 = a by omega)]
        rw [read_below hw.2 (by omega), h2]
      · simp [Memory.read]
    · split
      · rename_i hab
        split
        · rename_i h2
          rw [read_below hw.2 (by omega), h2]
        · simp [Memory.read]
      · rename_i h1 h2
        simp only [Memory.read, if_neg (show ¬c.1 = a by omega)]
        exact ih hw.2

/-- A read after a write to the same byte gives the value written. -/
theorem read_write_self {m : List Host.Cell} (a : Nat) (v : Byte) (hw : Memory.wf m = true) :
    Memory.read (Memory.write m a v) a = v := read_write_self_from v hw

/-- A write keeps the canonical form. -/
theorem wfFrom_write {m : List Host.Cell} {lo a : Nat} (v : Byte) (hw : Memory.wfFrom lo m = true)
    (ha : lo ≤ a) : Memory.wfFrom lo (Memory.write m a v) = true := by
  induction m generalizing lo with
  | nil =>
    simp only [Memory.write]
    split
    · rfl
    · rename_i h; simp [Memory.wfFrom, h, ha]
  | cons c m ih =>
    have hw0 := hw
    simp only [Memory.wfFrom, Bool.and_eq_true, decide_eq_true_eq] at hw
    simp only [Memory.write]
    split
    · split
      · exact hw0
      · rename_i h1 h2
        simp only [Memory.wfFrom, Bool.and_eq_true, decide_eq_true_eq]
        exact ⟨⟨ha, h2⟩, ⟨by omega, hw.1.2⟩, hw.2⟩
    · split
      · split
        · exact wfFrom_mono (by omega) hw.2
        · rename_i h1 h2 h3
          simp only [Memory.wfFrom, Bool.and_eq_true, decide_eq_true_eq]
          exact ⟨⟨ha, h3⟩, by rw [h2]; exact hw.2⟩
      · simp only [Memory.wfFrom, Bool.and_eq_true, decide_eq_true_eq]
        exact ⟨hw.1, ih hw.2 (by omega)⟩

/-- A write keeps the canonical form. -/
theorem wf_write {m : List Host.Cell} (a : Nat) (v : Byte) (hw : Memory.wf m = true) :
    Memory.wf (Memory.write m a v) = true := wfFrom_write v hw (Nat.zero_le a)

/-! ## Several bytes -/

/-- A store keeps the canonical form. -/
theorem wf_storeBytes {m : List Host.Cell} (a n : Nat) (v : Word) (hw : Memory.wf m = true) :
    Memory.wf (Memory.storeBytes m a n v) = true := by
  induction n generalizing m a v with
  | zero => exact hw
  | succ n ih => exact ih _ _ (wf_write a _ hw)

/-- A store leaves every byte outside it as it was. -/
theorem read_storeBytes_ne (m : List Host.Cell) {a n b : Nat} (v : Word) (h : ¬(a ≤ b ∧ b < a + n)) :
    Memory.read (Memory.storeBytes m a n v) b = Memory.read m b := by
  induction n generalizing m a v with
  | zero => rfl
  | succ n ih =>
    rw [Memory.storeBytes, ih _ _ (by omega), read_write_ne _ _ (by omega)]

/-- A store leaves a load of bytes outside it as it was. -/
theorem loadBytes_storeBytes_ne (m : List Host.Cell) {a n b k : Nat} (v : Word)
    (h : b + k ≤ a ∨ a + n ≤ b) :
    Memory.loadBytes (Memory.storeBytes m a n v) b k = Memory.loadBytes m b k := by
  induction k generalizing b with
  | zero => rfl
  | succ k ih =>
    rw [Memory.loadBytes, Memory.loadBytes, ih (by omega), read_storeBytes_ne _ _ (by omega)]

/-- A load of at most four bytes fits its width. -/
theorem loadBytes_lt (m : List Host.Cell) (a n : Nat) : (Memory.loadBytes m a n).toNat < 2 ^ (8 * n) := by
  induction n generalizing a with
  | zero => simp [Memory.loadBytes]
  | succ n ih =>
    rw [Memory.loadBytes, BitVec.toNat_or]
    apply Nat.or_lt_two_pow
    · have h1 := (Memory.read m a).isLt
      have h2 : (2 : Nat) ^ 8 ≤ 2 ^ (8 * (n + 1)) := Nat.pow_le_pow_right (by omega) (by omega)
      simp only [BitVec.toNat_setWidth]
      exact Nat.lt_of_le_of_lt (Nat.mod_le _ _) (by omega)
    · rw [BitVec.toNat_shiftLeft]
      refine Nat.lt_of_le_of_lt (Nat.mod_le _ _) ?_
      have h3 := ih (a + 1)
      have h4 : 8 * (n + 1) = 8 * n + 8 := by omega
      rw [h4, Nat.pow_add, Nat.shiftLeft_eq]
      exact Nat.mul_lt_mul_of_pos_right h3 (by omega)

/-- The low bytes of a word, put together again. -/
theorem byte_or_shift (v : Word) (n : Nat) :
    (v.setWidth 8).setWidth 32 ||| ((v >>> 8 &&& BitVec.ofNat 32 (2 ^ (8 * n) - 1)) <<< 8) =
      v &&& BitVec.ofNat 32 (2 ^ (8 * (n + 1)) - 1) := by
  apply BitVec.eq_of_getLsbD_eq
  intro i hi
  have mask : ∀ k j : Nat, j < 32 → (BitVec.ofNat 32 (2 ^ k - 1)).getLsbD j = decide (j < k) := by
    intro k j hj
    rw [BitVec.getLsbD_ofNat, Nat.testBit_two_pow_sub_one]
    simp [hj]
  simp only [BitVec.getLsbD_or, BitVec.getLsbD_and, BitVec.getLsbD_shiftLeft, BitVec.getLsbD_setWidth,
    BitVec.getLsbD_ushiftRight, mask _ _ hi]
  by_cases h8 : i < 8
  · have : i < 8 * (n + 1) := by omega
    simp [h8, hi, this]
  · have e : 8 + (i - 8) = i := by omega
    rw [mask _ _ (by omega), e]
    have : (i - 8 < 8 * n) ↔ (i < 8 * (n + 1)) := by omega
    simp [h8, hi, this]

/-- A load of what a store wrote gives the value stored, as wide as the access. -/
theorem loadBytes_storeBytes {m : List Host.Cell} (a n : Nat) (v : Word) (hw : Memory.wf m = true) :
    Memory.loadBytes (Memory.storeBytes m a n v) a n = v &&& BitVec.ofNat 32 (2 ^ (8 * n) - 1) := by
  induction n generalizing m a v with
  | zero => simp [Memory.loadBytes]
  | succ n ih =>
    rw [Memory.loadBytes, Memory.storeBytes, ih _ _ (wf_write a _ hw), read_storeBytes_ne _ _ (by omega),
      read_write_self a _ hw, byte_or_shift]

/-- Byte `i` of a load of at most four bytes is the byte at its address, the lowest the least significant. -/
theorem loadBytes_byte (m : List Host.Cell) {a n i : Nat} (h : i < n) (hn : n ≤ 4) :
    (Memory.loadBytes m a n).extractLsb' (8 * i) 8 = Memory.read m (a + i) := by
  induction n generalizing a i with
  | zero => omega
  | succ n ih =>
    apply BitVec.eq_of_getLsbD_eq
    intro j hj
    simp only [Memory.loadBytes, BitVec.getLsbD_extractLsb', hj, decide_true, Bool.true_and, BitVec.getLsbD_or,
      BitVec.getLsbD_setWidth, BitVec.getLsbD_shiftLeft]
    cases i with
    | zero =>
      rw [show 8 * 0 + j = j by omega]
      simp [hj, show j < 32 by omega]
    | succ i =>
      have hz : (Memory.read m a).getLsbD (8 * (i + 1) + j) = false := BitVec.getLsbD_of_ge _ _ (by omega)
      rw [hz, show a + (i + 1) = a + 1 + i by omega, ← ih (by omega) (by omega)]
      simp only [BitVec.getLsbD_extractLsb', hj, decide_true, Bool.true_and]
      rw [show 8 * (i + 1) + j - 8 = 8 * i + j by omega]
      simp [show 8 * (i + 1) + j < 32 by omega, show ¬ 8 * (i + 1) + j < 8 by omega]

/-- A store puts byte `i` of its value at its address, the least significant the lowest. -/
theorem read_storeBytes {m : List Host.Cell} {a n i : Nat} (v : Word) (hw : Memory.wf m = true) (h : i < n) :
    Memory.read (Memory.storeBytes m a n v) (a + i) = v.extractLsb' (8 * i) 8 := by
  induction n generalizing m a i v with
  | zero => omega
  | succ n ih =>
    simp only [Memory.storeBytes]
    cases i with
    | zero =>
      rw [read_storeBytes_ne _ _ (by omega), Nat.add_zero, read_write_self a _ hw]
      ext j hj; simp
    | succ i =>
      rw [show a + (i + 1) = a + 1 + i by omega, ih _ (wf_write a _ hw) (by omega)]
      apply BitVec.eq_of_getLsbD_eq
      intro j hj
      simp only [BitVec.getLsbD_extractLsb', BitVec.getLsbD_ushiftRight]
      rw [show 8 + (8 * i + j) = 8 * (i + 1) + j by omega]

/-! ## Accesses -/

/-- A store keeps the canonical form. -/
theorem wf_memWrite {m : List Host.Cell} (a : Word) (z : Size) (v : Word) (hw : Memory.wf m = true) :
    Memory.wf (memWrite m a z v) = true := wf_storeBytes _ _ _ hw

/-- A store leaves every byte outside it as it was. -/
theorem read_memWrite_ne (m : List Host.Cell) (a : Word) (z : Size) (v : Word) {b : Nat}
    (h : ¬(a.toNat ≤ b ∧ b < a.toNat + z.bytes)) :
    Memory.read (memWrite m a z v) b = Memory.read m b := read_storeBytes_ne m v h

/-- A store leaves a load of other bytes as it was. -/
theorem memRead_memWrite_ne (m : List Host.Cell) (a b : Word) (y z : Size) (v : Word)
    (h : b.toNat + y.bytes ≤ a.toNat ∨ a.toNat + z.bytes ≤ b.toNat) :
    memRead (memWrite m a z v) b y = memRead m b y := loadBytes_storeBytes_ne m v h

/-- A load of what a store wrote. -/
theorem memRead_memWrite {m : List Host.Cell} (a : Word) (z : Size) (v : Word) (hw : Memory.wf m = true) :
    memRead (memWrite m a z v) a z = v &&& BitVec.ofNat 32 (2 ^ (8 * z.bytes) - 1) :=
  loadBytes_storeBytes _ _ _ hw

/-- A load fits its width, so storing it again stores it whole. -/
theorem memRead_and_mask (m : List Host.Cell) (a : Word) (z : Size) :
    memRead m a z &&& BitVec.ofNat 32 (2 ^ (8 * z.bytes) - 1) = memRead m a z := by
  have h := loadBytes_lt m a.toNat z.bytes
  have hz : 8 * z.bytes ≤ 32 := by cases z <;> decide
  have hp : (2 : Nat) ^ (8 * z.bytes) ≤ 2 ^ 32 := Nat.pow_le_pow_right (by omega) hz
  apply BitVec.eq_of_toNat_eq
  simp only [memRead] at h ⊢
  rw [BitVec.toNat_and, BitVec.toNat_ofNat, Nat.mod_eq_of_lt (by have := Nat.two_pow_pos (8 * z.bytes); omega),
    Nat.and_two_pow_sub_one_eq_mod, Nat.mod_eq_of_lt h]

/-- A load right after the store of the same word gives the word. -/
theorem memRead_memWrite_word {m : List Host.Cell} (a v : Word) (hw : Memory.wf m = true) :
    memRead (memWrite m a .word v) a .word = v := by
  rw [memRead_memWrite a .word v hw]
  exact BitVec.and_allOnes

/-- The memory after reset is canonical. -/
theorem wf_reset : Memory.wf State.reset.mem = true := rfl

/-- The memory `construct` leaves is canonical. -/
theorem wf_ofConfig (c : Config) : Memory.wf (State.ofConfig c).mem = true := rfl

end Sys2Proof.Laws
end

