-- ==== Sys2Proof/Laws/Ops.lean ====
section
/-! SUPPORT. One lemma for each shared operation that says once everything it can do. -/

namespace Sys2Proof.Laws

open Sys2Proof.Machine

/-! ## The configuration -/

/-- What a well-formed configuration says, check by check. -/
theorem wf_checks {c : Config} (h : c.wf = true) :
    c.okWidth = true ∧ c.okHeight = true ∧ c.okVertical = true ∧ c.okHorizontal = true ∧
    c.okBacklight = true ∧ c.okQueues = true ∧ c.okClock = true ∧ c.okProducers = true ∧
    c.okWindows = true ∧ c.okMap = true ∧ c.okFb0 = true ∧ c.okPalette = true ∧ c.okCounters = true := by
  simp only [Config.wf, Bool.and_eq_true] at h
  tauto

/-- The windows of a well-formed configuration: aligned, below the top, and apart from RAM and each other. -/
theorem wf_map {c : Config} (h : c.wf = true) :
    c.ramEnd ≤ 2 ^ 32 ∧ c.regBase.toNat % 256 = 0 ∧ c.dmaBase.toNat % 256 = 0 ∧
    (c.ramEnd ≤ c.regBase.toNat ∨ c.regBase.toNat + 256 ≤ c.ramBase.toNat) ∧
    (c.ramEnd ≤ c.dmaBase.toNat ∨ c.dmaBase.toNat + 256 ≤ c.ramBase.toNat) ∧
    (c.regBase.toNat + 256 ≤ c.dmaBase.toNat ∨ c.dmaBase.toNat + 256 ≤ c.regBase.toNat) := by
  obtain ⟨-, -, -, -, -, -, -, -, hw, hm, -, -, -⟩ := wf_checks h
  simp only [Config.okWindows, Config.okMap, Config.apart, Bool.and_eq_true, Bool.or_eq_true,
    decide_eq_true_eq] at hw hm
  refine ⟨hm.1.1.1, hw.1, hw.2, ?_, ?_, hm.2⟩ <;> (simp only [Config.ramEnd] at *; omega)

/-- The sizes of a well-formed configuration. -/
theorem wf_sizes {c : Config} (h : c.wf = true) :
    4 ≤ c.width ∧ c.width < 2 ^ 16 ∧ 1 ≤ c.height ∧ c.height < 2 ^ 16 ∧ 1 ≤ c.bufRows ∧
    4 * c.lineWords = c.stride ∧ c.stride % 4 = 0 ∧ 0 < c.stride ∧ c.stride ≤ c.bufBytes ∧
    c.bufBytes % 4 = 0 := by
  obtain ⟨hw, hh, -, -, -, -, -, -, -, -, -, -, hc⟩ := wf_checks h
  simp only [Config.okWidth, Config.okHeight, Config.okCounters, Bool.and_eq_true, Bool.or_eq_true,
    Bool.not_eq_true', decide_eq_true_eq] at hw hh hc
  have hrows : 1 ≤ c.bufRows := by
    simp only [Config.bufRows]
    rcases hh.2 with h0 | h2
    · rw [h0]; simpa using hh.1
    · rcases Bool.eq_false_or_eq_true c.rowShift with h1 | h1
      · rw [h1]; simp only [Bool.toNat_true, Nat.shiftRight_eq_div_pow]; omega
      · rw [h1]; simpa using hh.1
  have hstride : 4 * c.lineWords = c.stride := by
    have := hw.2
    simp only [Config.lineWords, Config.stride, Config.bpp]
    revert this
    cases c.mode <;> simp <;> omega
  have hpos : 0 < c.stride := by
    simp only [Config.stride, Config.bpp]
    cases c.mode <;> simp <;> omega
  have hb : c.stride ≤ c.bufBytes := Nat.le_mul_of_pos_right _ hrows
  refine ⟨hw.1, hc.2, hh.1, hc.1.2, hrows, hstride, by omega, hpos, hb, ?_⟩
  rw [Config.bufBytes, ← hstride, Nat.mul_assoc]
  exact Nat.mul_mod_right 4 _

/-- What `inRam` says. -/
theorem inRam_iff (c : Config) (a : Word) (n : Nat) :
    c.inRam a n = true ↔ c.ramBase.toNat ≤ a.toNat ∧ a.toNat + n ≤ c.ramEnd := by
  simp [Config.inRam]

/-- What `bufferOk` says. -/
theorem bufferOk_iff (c : Config) (b : Word) :
    c.bufferOk b = true ↔ b.toNat % 4 = 0 ∧ c.ramBase.toNat ≤ b.toNat ∧ b.toNat + c.bufBytes ≤ c.ramEnd := by
  simp [Config.bufferOk, Config.inRam]

/-- An offset that stays below 2^32 does not wrap. -/
theorem offset_toNat {a : Word} {n : Nat} (h : a.toNat + n < 2 ^ 32) : (offset a n).toNat = a.toNat + n := by
  simp only [offset, BitVec.toNat_add, BitVec.toNat_ofNat]
  omega

/-- The access is aligned. -/
theorem aligned_iff (a : Word) (z : Size) : aligned a z = true ↔ a.toNat % z.bytes = 0 := by
  simp [aligned]

/-! ## Regions -/

/-- An access that lies in RAM. -/
theorem region_ram {c : Config} {a : Word} {n : Nat} (h : c.inRam a n = true) : region c a n = .ram := by
  simp [region, h]

/-- An access that lies in the register window. -/
theorem region_regWin {c : Config} {a : Word} {n : Nat} (hc : c.wf = true) (hn : 0 < n)
    (h1 : c.regBase.toNat ≤ a.toNat) (h2 : a.toNat + n ≤ c.regBase.toNat + 256) :
    region c a n = .regWin (a.toNat - c.regBase.toNat) := by
  have hm := wf_map hc
  have : c.inRam a n = false := by
    rw [← Bool.not_eq_true, inRam_iff]; omega
  simp [region, this, h1, h2]

/-- An access that lies in the DMA window. -/
theorem region_dmaWin {c : Config} {a : Word} {n : Nat} (hc : c.wf = true) (hn : 0 < n)
    (h1 : c.dmaBase.toNat ≤ a.toNat) (h2 : a.toNat + n ≤ c.dmaBase.toNat + 256) :
    region c a n = .dmaWin (a.toNat - c.dmaBase.toNat) := by
  have hm := wf_map hc
  have h3 : c.inRam a n = false := by
    rw [← Bool.not_eq_true, inRam_iff]; omega
  have h4 : ¬(c.regBase.toNat ≤ a.toNat ∧ a.toNat + n ≤ c.regBase.toNat + 256) := by omega
  simp only [region, h3, if_neg h4, if_pos (And.intro h1 h2), Bool.false_eq_true, if_false]

/-- The region is RAM exactly when the access lies in RAM. -/
theorem region_eq_ram_iff (c : Config) (a : Word) (n : Nat) : region c a n = .ram ↔ c.inRam a n = true := by
  constructor
  · intro h
    simp only [region] at h
    split at h
    · assumption
    · split at h
      · cases h
      · split at h <;> cases h
  · exact region_ram

/-! ## Producers' accesses -/

/-- A producer's load from RAM. -/
theorem producerLoad_ram {s : State} {a : Word} {z : Size} (ha : a.toNat % z.bytes = 0)
    (hr : s.cfg.inRam a z.bytes = true) : producerLoad s a z = .ok (memRead s.mem a z) := by
  have := (aligned_iff a z).2 ha
  simp [producerLoad, this, region_ram hr]

/-- A producer's store to RAM. -/
theorem producerStore_ram {s : State} {a : Word} {z : Size} (v : Word) (ha : a.toNat % z.bytes = 0)
    (hr : s.cfg.inRam a z.bytes = true) :
    producerStore s a z v = .ok { s with mem := memWrite s.mem a z v } := by
  have := (aligned_iff a z).2 ha
  simp [producerStore, this, region_ram hr]

/-- A producer's store that is not refused writes the access's bytes, in RAM, and nothing else. -/
theorem producerStore_ok {s t : State} {a : Word} {z : Size} {v : Word} (h : producerStore s a z v = .ok t) :
    a.toNat % z.bytes = 0 ∧ s.cfg.inRam a z.bytes = true ∧ t = { s with mem := memWrite s.mem a z v } := by
  simp only [producerStore] at h
  split at h
  · cases h
  · rename_i ha
    split at h <;> try cases h
    rename_i hr
    exact ⟨(aligned_iff a z).1 (by simpa using ha), (region_eq_ram_iff _ _ _).1 hr, rfl⟩

/-- A producer's store is refused only for one of three reasons. -/
theorem producerStore_error {s : State} {a : Word} {z : Size} {v : Word} {r : Refusal}
    (h : producerStore s a z v = .error r) :
    r = .misalignedAccess ∨ r = .windowStore ∨ r = .unmappedAccess := by
  simp only [producerStore] at h
  split at h
  · cases h; simp
  · split at h <;> cases h <;> simp

/-- A producer's load is refused only for one of three reasons. -/
theorem producerLoad_error {s : State} {a : Word} {z : Size} {r : Refusal}
    (h : producerLoad s a z = .error r) :
    r = .misalignedAccess ∨ r = .narrowWindowAccess ∨ r = .unmappedAccess := by
  simp only [producerLoad] at h
  split at h
  · cases h; simp
  · split at h <;> (try split at h) <;> cases h <;> simp

/-- A producer's store keeps the canonical form. -/
theorem wf_producerStore {s t : State} {a : Word} {z : Size} {v : Word} (h : producerStore s a z v = .ok t)
    (hm : Memory.wf s.mem = true) : Memory.wf t.mem = true := by
  obtain ⟨-, -, rfl⟩ := producerStore_ok h
  exact wf_memWrite _ _ _ hm

/-- A producer's load depends on the configuration, the registers it shows and memory, not on the run around. -/
theorem producerLoad_env (s : State) (e : Env) (a : Word) (z : Size) :
    producerLoad { s with env := e } a z = producerLoad s a z := rfl

/-- A producer's store does not depend on the run around. -/
theorem producerStore_env (s : State) (e : Env) (a : Word) (z : Size) (v : Word) :
    producerStore { s with env := e } a z v =
      match producerStore s a z v with
      | .ok t => .ok { t with env := e }
      | .error r => .error r := by
  simp only [producerStore]
  split
  · rfl
  · split <;> rfl

/-! ## Triggers and aborts -/

/-- A trigger that is not refused: the retrigger fault if the channel was busy, and the channel idle at the new
address (a null or disabled trigger) or started on it. -/
theorem trigger_ok {n : ChanId} {v : Word} {s t : State} (h : trigger n v s = .ok t) :
    t = (raiseIf (s.chan n).ctrl.busy .dmaRetrigger s).setChan n
      (if v = 0 ∨ (s.chan n).ctrl.en = false then { s.chan n with readAddr := v }.idle
      else (s.chan n).started v) ∧
    (v = 0 ∨ (s.chan n).ctrl.en = false ∨ (s.chan n).transCount ≠ 0) := by
  simp only [trigger] at h
  split at h
  · rename_i h1
    cases h
    exact ⟨by rw [if_pos h1], by tauto⟩
  · rename_i h1
    split at h
    · cases h
    · rename_i h2
      cases h
      exact ⟨by rw [if_neg h1], by tauto⟩

/-- A trigger is refused only for a run of no transfers. -/
theorem trigger_error {n : ChanId} {v : Word} {s : State} {r : Refusal} (h : trigger n v s = .error r) :
    r = .zeroTransCount ∧ v ≠ 0 ∧ (s.chan n).ctrl.en = true ∧ (s.chan n).transCount = 0 := by
  simp only [trigger] at h
  split at h
  · cases h
  · split at h
    · rename_i h1 h2
      cases h
      rw [not_or, Bool.not_eq_false] at h1
      exact ⟨rfl, h1.1, h1.2, h2⟩
    · cases h

/-- A trigger of an idle, enabled channel that has transfers to make. -/
theorem trigger_start {n : ChanId} {v : Word} {s : State} (hb : (s.chan n).ctrl.busy = false)
    (he : (s.chan n).ctrl.en = true) (hv : v ≠ 0) (ht : (s.chan n).transCount ≠ 0) :
    trigger n v s = .ok (s.setChan n ((s.chan n).started v)) := by
  have h1 : ¬(v = 0 ∨ (s.chan n).ctrl.en = false) := by simp only [he]; tauto
  simp only [trigger, hb, if_neg h1, if_neg ht, raiseIf_false]

/-- A null trigger of an idle channel. -/
theorem trigger_null {n : ChanId} {s : State} (hb : (s.chan n).ctrl.busy = false) :
    trigger n 0 s = .ok (s.setChan n { s.chan n with readAddr := 0 }.idle) := by
  simp [trigger, hb]

/-! ## DMA accesses -/

/-- A DMA load from RAM. -/
theorem dmaLoad_ram {s : State} {a : Word} (ha : a.toNat % 4 = 0) (hr : s.cfg.inRam a 4 = true) :
    dmaLoad s a = (memRead s.mem a .word, s) := by
  have := (aligned_iff a .word).2 ha
  simp [dmaLoad, this, region_ram hr]

/-- A DMA load from the register window. -/
theorem dmaLoad_regWin {s : State} {a : Word} {off : Nat} (hc : s.cfg.wf = true)
    (ha : a.toNat = s.cfg.regBase.toNat + off) (h4 : off % 4 = 0) (hoff : off < 256) :
    dmaLoad s a = if off = offPluOutf ∧ s.cfg.mode = .indexed then popPlo s else (regRead s off, s) := by
  have hm := wf_map hc
  have h1 : aligned a .word = true := (aligned_iff _ _).2 (by simp only [Size.bytes]; omega)
  have h2 : region s.cfg a 4 = .regWin off := by
    rw [region_regWin hc (by omega) (by omega) (by omega)]
    simp [ha]
  simp [dmaLoad, h1, h2]

/-- A DMA store to the register window. -/
theorem dmaStore_regWin {s : State} {a : Word} {off : Nat} (v : Word) (hc : s.cfg.wf = true)
    (ha : a.toNat = s.cfg.regBase.toNat + off) (h4 : off % 4 = 0) (hoff : off < 256) :
    dmaStore s a v = .ok (portStore s off v) := by
  have hm := wf_map hc
  have h1 : aligned a .word = true := (aligned_iff _ _).2 (by simp only [Size.bytes]; omega)
  have h2 : region s.cfg a 4 = .regWin off := by
    rw [region_regWin hc (by omega) (by omega) (by omega)]
    simp [ha]
  simp [dmaStore, h1, h2]

/-- A DMA store to a channel's trigger. -/
theorem dmaStore_trigger {s : State} {a : Word} {off : Nat} (v : Word) (hc : s.cfg.wf = true)
    (ha : a.toNat = s.cfg.dmaBase.toNat + off) (hoff : off < 256) (ht : off % 0x40 = offTrig)
    (hx : s.cfg.hasChan (chanAt off) = true) :
    dmaStore s a v = trigger (chanAt off) v s := by
  have hm := wf_map hc
  simp only [offTrig] at ht
  have h1 : aligned a .word = true := (aligned_iff _ _).2 (by simp only [Size.bytes]; omega)
  have h2 : region s.cfg a 4 = .dmaWin off := by
    rw [region_dmaWin hc (by omega) (by omega) (by omega)]
    simp [ha]
  simp [dmaStore, h1, h2, ht, hx, offTrig]

/-- A DMA load leaves memory alone. -/
theorem dmaLoad_keeps_mem (s : State) (a : Word) : (dmaLoad s a).2.mem = s.mem := dmaLoad_mem s a

/-- A DMA store that is not refused: a word of RAM, a port, a trigger, or a bus error. -/
theorem dmaStore_ok {s t : State} {a v : Word} (h : dmaStore s a v = .ok t) :
    (s.cfg.inRam a 4 = true ∧ t = { s with mem := memWrite s.mem a .word v }) ∨
    (∃ off, region s.cfg a 4 = .regWin off ∧ t = portStore s off v) ∨
    (∃ off, region s.cfg a 4 = .dmaWin off ∧ off % 0x40 = offTrig ∧ s.cfg.hasChan (chanAt off) = true ∧
      trigger (chanAt off) v s = .ok t) ∨
    t = raise .busError s := by
  simp only [dmaStore] at h
  split at h
  · cases h; simp
  · split at h
    · rename_i hr
      cases h
      exact .inl ⟨(region_eq_ram_iff _ _ _).1 hr, rfl⟩
    · rename_i off hr
      cases h
      exact .inr (.inl ⟨off, hr, rfl⟩)
    · rename_i off hr
      split at h
      · rename_i hx
        exact .inr (.inr (.inl ⟨off, hr, hx.1, hx.2, h⟩))
      · cases h; simp
    · cases h; simp

/-- A trigger leaves memory alone. -/
theorem trigger_mem {n : ChanId} {v : Word} {s t : State} (h : trigger n v s = .ok t) : t.mem = s.mem := by
  obtain ⟨rfl, -⟩ := trigger_ok h
  simp

/-- A DMA store keeps the canonical form. -/
theorem wf_dmaStore {s t : State} {a v : Word} (h : dmaStore s a v = .ok t)
    (hm : Memory.wf s.mem = true) : Memory.wf t.mem = true := by
  rcases dmaStore_ok h with ⟨-, rfl⟩ | ⟨off, -, rfl⟩ | ⟨off, -, -, -, ht⟩ | rfl
  · exact wf_memWrite _ _ _ hm
  · rw [portStore_mem]; exact hm
  · rw [trigger_mem ht]; exact hm
  · exact hm

/-- Counting a transfer that is not the last. -/
theorem dmaCount_more {n : ChanId} {s : State} (h : (s.chan n).remain ≠ 1) :
    dmaCount n s = .ok (s.setChan n (s.chan n).counted) := by
  have : ¬(s.chan n).remain - 1 = 0 := by
    intro h0; exact h (by bv_omega)
  simp only [dmaCount, chan_setChan_self, Channel.counted, if_neg this]

/-- A DMA transfer that is not refused: its load, its store, and the count. -/
theorem dmaTransfer_ok {n : ChanId} {s t : State} (h : dmaTransfer n s = .ok t) :
    ∃ u, dmaStore (dmaLoad s (s.chan n).readAddr).2 (s.chan n).writeAddr
        (dmaLoad s (s.chan n).readAddr).1 = .ok u ∧ dmaCount n u = .ok t := by
  simp only [dmaTransfer, bswapFn] at h
  split at h
  · cases h
  · rename_i u hu
    exact ⟨u, hu, h⟩

/-! ## Producers' command state -/

/-- Setting the acting producer's command state changes that producer only. -/
theorem setCmd_eq {s : State} {p : Producer} (c : Cmd) (h : s.producers[s.env.actor]? = some p) :
    s.setCmd c = { s with producers := s.producers.set s.env.actor { p with cmd := c } } := by
  simp [State.setCmd, h, State.setProducer]

/-- A layer's pixel lies in RAM with its source: reading it gives the pixel at its address. -/
theorem layerPixel_ram {s : State} {src : Word} {l n o : Nat} (hc : s.cfg.wf = true)
    (hs : sourceOk s.cfg src n = true) (hl : l < n) (ho : o % s.cfg.bpp = 0) (hb : o < s.cfg.bufBytes) :
    layerPixel s src l o = .ok (Safety.layerAt s src l o) := by
  have hm := wf_map hc
  have hz := wf_sizes hc
  simp only [sourceOk, Bool.and_eq_true, decide_eq_true_eq, inRam_iff] at hs
  have hln : (l + 1) * s.cfg.bufBytes ≤ n * s.cfg.bufBytes := Nat.mul_le_mul_right _ hl
  rw [Nat.succ_mul] at hln
  have hl4 : l * s.cfg.bufBytes % 4 = 0 := by rw [Nat.mul_mod, hz.2.2.2.2.2.2.2.2.2]; simp
  have ha : (offset src (l * s.cfg.bufBytes + o)).toNat = src.toNat + (l * s.cfg.bufBytes + o) :=
    offset_toNat (by omega)
  apply producerLoad_ram
  · rw [ha]; revert ho; simp only [pixelSize, Config.bpp]; cases s.cfg.mode <;> simp [Size.bytes] <;> omega
  · rw [inRam_iff, ha]
    have : o + (pixelSize s.cfg).bytes ≤ s.cfg.bufBytes := by
      revert ho; simp only [pixelSize, Config.bpp]; cases s.cfg.mode <;> simp [Size.bytes] <;> omega
    omega

/-- The composite is the value of one of the layers. -/
theorem composite_ok {s : State} {src : Word} {o n : Nat} {v : Word} (h : composite s src o n = .ok v) :
    ∃ l, l ≤ n ∧ layerPixel s src l o = .ok v := by
  induction n with
  | zero => exact ⟨0, Nat.le_refl 0, h⟩
  | succ n ih =>
    simp only [composite] at h
    split at h
    · cases h
    · rename_i w hw
      split at h
      · cases h; exact ⟨n + 1, Nat.le_refl _, hw⟩
      · obtain ⟨l, hl, hv⟩ := ih h
        exact ⟨l, by omega, hv⟩

/-- A pixel copy that is not refused stores the composite and changes nothing else. -/
theorem copyPixel_ok {s t : State} {src dest : Word} {layers o : Nat}
    (h : copyPixel s src layers dest o = .ok t) :
    ∃ v, composite s src o (layers - 1) = .ok v ∧
      t = { s with mem := memWrite s.mem (offset dest o) (pixelSize s.cfg) v } := by
  simp only [copyPixel] at h
  split at h
  · cases h
  · rename_i v hv
    exact ⟨v, hv, (producerStore_ok h).2.2⟩

end Sys2Proof.Laws
end

