-- ==== Sys2Proof/Laws/PerInstr.lean ====
section
/-! SUPPORT. The families of statements made for each instruction: every instruction's packet is one the opcode
maps admit (`30_encoding.md` R303, R304, R320, R321). -/

namespace Sys2Proof.Laws

/-- Bits 31:20 of a timing word are zero, whatever its fields (`30_encoding.md` R300). -/
theorem timingWordOk_timingWord (t : Trig) (vs hs : Bool) (count : BitVec 16) :
    timingWordOk (timingWord t vs hs count) = true := by
  refine decide_eq_true (BitVec.eq_of_getLsbD_eq ?_)
  intro i hi
  have h16 : ¬20 + i < 16 := by omega
  have h17 : ¬20 + i - 16 < 1 := by omega
  have h18 : ¬20 + i - 16 - 1 < 1 := by omega
  have h20 : ¬20 + i - 16 - 1 - 1 < 2 := by omega
  rw [BitVec.getLsbD_extractLsb', timingWord, BitVec.getLsbD_append, if_neg h16, BitVec.getLsbD_append,
    if_neg h17, BitVec.getLsbD_append, if_neg h18, BitVec.getLsbD_append, if_neg h20]
  simp

/-- The instruction's packet is one the opcode maps admit. -/
def EncodeWf.Statement (i : Instr) : Prop := (encode i).wf = true

theorem EncodeWf.twNone (count : BitVec 16) (hs vs : Bool) : EncodeWf.Statement (.twNone count hs vs) :=
  timingWordOk_timingWord .none vs hs count

theorem EncodeWf.twLineReady (count : BitVec 16) (hs vs : Bool) :
    EncodeWf.Statement (.twLineReady count hs vs) := timingWordOk_timingWord .lineReady vs hs count

theorem EncodeWf.twNextLine (count : BitVec 16) (hs vs : Bool) :
    EncodeWf.Statement (.twNextLine count hs vs) := timingWordOk_timingWord .nextLine vs hs count

theorem EncodeWf.twFrameReady (count : BitVec 16) (hs vs : Bool) :
    EncodeWf.Statement (.twFrameReady count hs vs) := timingWordOk_timingWord .frameReady vs hs count

theorem EncodeWf.init : EncodeWf.Statement .init := rfl

theorem EncodeWf.teardown : EncodeWf.Statement .teardown := rfl

theorem EncodeWf.setFramebuffer (base : Word) : EncodeWf.Statement (.setFramebuffer base) := rfl

theorem EncodeWf.waitVsync : EncodeWf.Statement .waitVsync := rfl

theorem EncodeWf.setPalette (index colour : Word) : EncodeWf.Statement (.setPalette index colour) := rfl

theorem EncodeWf.setBacklight (brightness : Word) : EncodeWf.Statement (.setBacklight brightness) := rfl

theorem EncodeWf.update (src layers pal : Word) : EncodeWf.Statement (.update src layers pal) := rfl

theorem EncodeWf.partialUpdate (src layers : Word) (x y w h : BitVec 16) :
    EncodeWf.Statement (.partialUpdate src layers x y w h) := rfl

end Sys2Proof.Laws
end

