-- ==== Sys2Proof/Laws/Step.lean ====
section
/-! SUPPORT. What a step can do, said once: the turn of the agent chosen, and for each agent the forms its step
takes. Claims about every step start from these. -/

namespace Sys2Proof.Laws

open Sys2Proof.Machine

/-! ## The schedule's own fields -/

@[simp] theorem takeTurn_chan (s : State) (n : ChanId) : (takeTurn s).chan n = s.chan n := rfl

/-- Whether an agent's step is enabled does not depend on the schedule. -/
@[simp] theorem enabled_takeTurn (a : Agent) (s : State) : enabled a (takeTurn s) = enabled a s := by
  cases a <;> rfl

/-- The list names the agent that moves, but for a tick under the premise. -/
theorem chosen_listed {s : State} {a : Agent} {q : List Agent} (h : s.env.sched = a :: q) (ha : a ≠ .tick) :
    chosen s = a := by
  have hn : named s = a := by simp only [named, h]
  have hb : beforeTick s = none := if_neg (by rw [hn]; exact fun x => ha x.2)
  simp only [chosen, hb, hn]

/-- Under the free policy the agent named moves. -/
theorem chosen_free {s : State} (h : s.env.policy = .free) : chosen s = named s := by
  have hb : beforeTick s = none := if_neg (by rw [h]; exact fun x => by cases x.1)
  simp only [chosen, hb]

/-! ## The step -/

/-- A step that answers a next state: the machine has not stopped, and the agent chosen has taken its turn. -/
theorem step_next {s t : State} (h : step s = .next t) :
    isStopped s = false ∧ agentTurn (chosen s) (takeTurn s) = .next t := by
  simp only [step, nextStep] at h
  split at h
  · cases h
  · rename_i h1
    exact ⟨by simpa using h1, h⟩

/-- A step is refused only by the turn of the agent chosen. -/
theorem step_refused {s : State} {r : Refusal} (h : step s = .refused r) :
    isStopped s = false ∧ enabled (chosen s) s = true ∧ runAgent (chosen s) (takeTurn s) = .refused r := by
  simp only [step, nextStep] at h
  split at h
  · cases h
  · rename_i h1
    simp only [agentTurn, enabled_takeTurn] at h
    split at h
    · rename_i h2
      exact ⟨by simpa using h1, h2, h⟩
    · cases h

/-- A step faults exactly after a fatal stop. -/
theorem step_fault_iff (s : State) (f : Fault) : step s = .fault f ↔ isStopped s = true := by
  cases f
  simp only [step, nextStep]
  constructor
  · intro h
    split at h
    · assumption
    · exfalso
      simp only [agentTurn] at h
      split at h
      · revert h
        generalize chosen s = a
        have issue_ne : ∀ r p u, issue r p u ≠ .fault .fatalStop := by
          intro r p u h
          cases r <;> simp only [issue] at h
          · split at h
            · rename_i i _
              cases i <;> simp only [exec, execTwNone, execTwLineReady, execTwNextLine, execTwFrameReady,
                execInit, execTeardown, execSetFramebuffer, execWaitVsync, execSetPalette, execSetBacklight,
                execUpdate, execPartialUpdate, outcomeOf] at h <;>
                (repeat' split at h) <;> cases h
            · cases h
          · split at h <;> cases h
          · simp only [outcomeOf] at h
            split at h <;> cases h
        have timing_ne : ∀ w u, runTiming w u ≠ .fault .fatalStop := by
          intro w u h
          simp only [runTiming] at h
          split at h
          · rename_i i hi
            simp only [decode, decodeTiming] at hi
            split at hi
            · cases hi
              revert h
              cases wordTrig w <;> intro h <;> cases h
            · cases hi
          · cases h
        intro h
        cases a <;> simp only [runAgent] at h
        · cases h
        · cases h
        · simp only [tickStep] at h
          split at h
          · split at h
            · cases h
            · exact timing_ne _ _ h
          · exact timing_ne _ _ h
        · cases h
        · simp only [outcomeOf] at h
          split at h <;> cases h
        · simp only [outcomeOf] at h
          split at h <;> cases h
        · simp only [producerStep] at h
          split at h
          · cases h
          · split at h
            · split at h
              · cases h
              · exact issue_ne _ _ _ h
            · simp only [outcomeOf] at h
              split at h <;> cases h
      · cases h
  · intro h
    rw [if_pos h]

/-! ## The turn of an agent -/

/-- A turn that answers a next state: nothing was enabled, or the agent's step ran. -/
theorem agentTurn_next {a : Agent} {s t : State} (h : agentTurn a s = .next t) :
    (enabled a s = false ∧ t = s) ∨ (enabled a s = true ∧ runAgent a s = .next t) := by
  simp only [agentTurn] at h
  split at h
  · rename_i h1; exact .inr ⟨h1, h⟩
  · rename_i h1
    cases h
    exact .inl ⟨by simpa using h1, rfl⟩

/-- An outcome of a shared operation that is a next state. -/
theorem outcomeOf_next {x : Except Refusal State} {t : State} (h : outcomeOf x = .next t) : x = .ok t := by
  cases x with
  | error r => cases h
  | ok s => cases h; rfl

/-- An outcome of a shared operation that is a refusal. -/
theorem outcomeOf_refused {x : Except Refusal State} {r : Refusal} (h : outcomeOf x = .refused r) :
    x = .error r := by
  cases x with
  | error e => cases h; rfl
  | ok s => cases h

/-- A timing word that decodes gives the instruction of its fields. -/
theorem decode_timing_ok {w : Word} {i : Instr} (h : decode (.timing w) = .ok i) :
    timingWordOk w = true ∧ i = Instr.ofTiming (wordTrig w) (wordCount w) (wordHs w) (wordVs w) := by
  simp only [decode, decodeTiming] at h
  split at h
  · rename_i h1
    cases h
    exact ⟨h1, rfl⟩
  · cases h

/-- The meaning of a timing word is one tick with it, whatever its trigger. -/
theorem exec_ofTiming (tr : Trig) (count : BitVec 16) (hs vs : Bool) (s : State) :
    exec (Instr.ofTiming tr count hs vs) s = .next (wordTick tr count hs vs s) := by
  cases tr <;> rfl

/-- A timing word that runs. -/
theorem runTiming_ok {w : Word} {s : State} (h : timingWordOk w = true) :
    runTiming w s = .next (wordTick (wordTrig w) (wordCount w) (wordHs w) (wordVs w) s) := by
  simp only [runTiming, decode, decodeTiming, h, if_true, exec_ofTiming]

/-- A timing word that is refused. -/
theorem runTiming_reserved {w : Word} {s : State} (h : timingWordOk w = false) :
    runTiming w s = .refused .reservedTimingWord := by
  simp [runTiming, decode, decodeTiming, h]

/-- The forms of a tick: TGEN stalls, a word begins, or a word goes on. -/
theorem tickStep_next {s t : State} (h : tickStep s = .next t) :
    (s.tgen.remain = 0 ∧ s.tgen.tq = [] ∧ t = stallTick s) ∨
    (∃ w q, s.tgen.remain = 0 ∧ s.tgen.tq = w :: q ∧ timingWordOk w = true ∧
      t = wordTick (wordTrig w) (wordCount w) (wordHs w) (wordVs w)
        { s with tgen := { s.tgen with tq := q } }) ∨
    (s.tgen.remain ≠ 0 ∧ timingWordOk s.tgen.word = true ∧
      t = wordTick (wordTrig s.tgen.word) (wordCount s.tgen.word) (wordHs s.tgen.word) (wordVs s.tgen.word)
        s) := by
  have run : ∀ w u, runTiming w u = .next t → timingWordOk w = true ∧
      t = wordTick (wordTrig w) (wordCount w) (wordHs w) (wordVs w) u := by
    intro w u hu
    rcases Bool.eq_false_or_eq_true (timingWordOk w) with h1 | h1
    · rw [runTiming_ok h1] at hu
      cases hu
      exact ⟨h1, rfl⟩
    · rw [runTiming_reserved h1] at hu
      cases hu
  simp only [tickStep] at h
  split at h
  · rename_i h0
    split at h
    · rename_i hq
      cases h
      exact .inl ⟨h0, hq, rfl⟩
    · rename_i w q hq
      obtain ⟨h1, h2⟩ := run _ _ h
      exact .inr (.inl ⟨w, q, h0, hq, h1, h2⟩)
  · rename_i h0
    obtain ⟨h1, h2⟩ := run _ _ h
    exact .inr (.inr ⟨h0, h1, h2⟩)

/-- A producer's step that answers a next state: it had nothing to do, it issued a request, or it took a step of
its command. -/
theorem producerStep_next {n : Nat} {s t : State} (h : producerStep n s = .next t) :
    t = s ∨
    (∃ p r q, s.producers[n]? = some p ∧ p.cmd = .idle ∧ p.queue = r :: q ∧
      issue r { p with queue := q } ((s.withActor n).setProducer n { p with queue := q }) = .next t) ∨
    (∃ p, s.producers[n]? = some p ∧ p.cmd ≠ .idle ∧ cmdStep p.cmd (s.withActor n) = .ok t) := by
  simp only [producerStep] at h
  split at h
  · cases h; exact .inl rfl
  · rename_i p hp
    split at h
    · rename_i hc
      split at h
      · cases h; exact .inl rfl
      · rename_i r q hq
        exact .inr (.inl ⟨p, r, q, hp, hc, hq, h⟩)
    · rename_i hc
      exact .inr (.inr ⟨p, hp, hc, outcomeOf_next h⟩)

/-- A producer's step that is refused: it issued a request that is refused, or its command's step is. -/
theorem producerStep_refused {n : Nat} {s : State} {e : Refusal} (h : producerStep n s = .refused e) :
    (∃ p r q, s.producers[n]? = some p ∧ p.cmd = .idle ∧ p.queue = r :: q ∧
      issue r { p with queue := q } ((s.withActor n).setProducer n { p with queue := q }) = .refused e) ∨
    (∃ p, s.producers[n]? = some p ∧ p.cmd ≠ .idle ∧ cmdStep p.cmd (s.withActor n) = .error e) := by
  simp only [producerStep] at h
  split at h
  · cases h
  · rename_i p hp
    split at h
    · rename_i hc
      split at h
      · cases h
      · rename_i r q hq
        exact .inl ⟨p, r, q, hp, hc, hq, h⟩
    · rename_i hc
      exact .inr ⟨p, hp, hc, outcomeOf_refused h⟩

/-- The producer that takes a step is the acting one, and its entry is the one just set. -/
theorem actor_setProducer {s : State} {n : Nat} {p x : Producer} (h : s.producers[n]? = some p) :
    ((s.withActor n).setProducer n x).producers[((s.withActor n).setProducer n x).env.actor]? = some x := by
  have hn : n < s.producers.length := by
    rcases Nat.lt_or_ge n s.producers.length with h1 | h1
    · exact h1
    · rw [List.getElem?_eq_none h1] at h; cases h
  simp [State.withActor, State.setProducer, hn]

/-! ## The parts of a tick -/

/-- A disabled pump only puts out no pixel. -/
theorem pumpCycle_off {b : Bool} {s : State} (h : s.pump.en = false) : pumpCycle b s = pumpIdleOutput s := by
  simp only [pumpCycle]
  exact if_pos h

/-- A waiting pump that sees no start only puts out no pixel. -/
theorem pumpCycle_wait {s : State} (h : s.pump.st = .waitStart) : pumpCycle false s = pumpIdleOutput s := by
  simp [pumpCycle, pumpIdleOutput, h]

/-- A waiting pump that sees the start takes it and puts out a pixel. -/
theorem pumpCycle_start {s : State} (he : s.pump.en = true) (h : s.pump.st = .waitStart) :
    pumpCycle true s = pumpEmit (pumpStart (pumpIdleOutput s)) := by
  simp [pumpCycle, pumpIdleOutput, pumpStart, he, h]

/-- A shifting pump puts out a pixel. -/
theorem pumpCycle_shift {b : Bool} {s : State} (he : s.pump.en = true) (h : s.pump.st = .shift) :
    pumpCycle b s = pumpEmit (pumpIdleOutput s) := by
  simp [pumpCycle, pumpIdleOutput, he, h]

/-- The three forms of the pump part of a tick. -/
theorem pumpCycle_cases (b : Bool) (s : State) :
    (pumpCycle b s = pumpIdleOutput s ∧ (s.pump.en = false ∨ s.pump.st = .waitStart ∧ b = false)) ∨
    (pumpCycle b s = pumpEmit (pumpStart (pumpIdleOutput s)) ∧ s.pump.en = true ∧ s.pump.st = .waitStart ∧
      b = true) ∨
    (pumpCycle b s = pumpEmit (pumpIdleOutput s) ∧ s.pump.en = true ∧ s.pump.st = .shift) := by
  rcases Bool.eq_false_or_eq_true s.pump.en with he | he
  · rcases hs : s.pump.st with _ | _
    · rcases b with _ | _
      · exact .inl ⟨pumpCycle_wait hs, .inr ⟨rfl, rfl⟩⟩
      · exact .inr (.inl ⟨pumpCycle_start he hs, he, rfl, rfl⟩)
    · exact .inr (.inr ⟨pumpCycle_shift he hs, he, rfl⟩)
  · exact .inl ⟨pumpCycle_off he, .inl he⟩

/-- The pump part of a tick neither reads nor writes TGEN. -/
theorem pumpCycle_setTgen (b : Bool) (s : State) (g : Tgen) :
    pumpCycle b { s with tgen := g } = { pumpCycle b s with tgen := g } := by
  have emit : ∀ u : State, pumpEmit { u with tgen := g } = { pumpEmit u with tgen := g } := by
    intro u
    simp only [pumpEmit]
    split <;> rfl
  rcases pumpCycle_cases b s with ⟨h, he | ⟨hw, rfl⟩⟩ | ⟨h, he, hs, rfl⟩ | ⟨h, he, hs⟩
  · rw [h, pumpCycle_off (by exact he)]; rfl
  · rw [h, pumpCycle_wait (by exact hw)]; rfl
  · rw [h, pumpCycle_start (by exact he) (by exact hs)]
    exact emit (pumpStart (pumpIdleOutput s))
  · rw [h, pumpCycle_shift (by exact he) (by exact hs)]
    exact emit (pumpIdleOutput s)

/-- The pump part of a tick changes the pump, the start latch and `STATUS`, and nothing else. -/
theorem pumpCycle_frame (b : Bool) (s : State) :
    pumpCycle b s = { s with
      pump := (pumpCycle b s).pump
      regs := { s.regs with
        startF := (pumpCycle b s).regs.startF, status := (pumpCycle b s).regs.status } } := by
  have emit : ∀ u : State, pumpEmit u = { u with
      pump := (pumpEmit u).pump
      regs := { u.regs with status := (pumpEmit u).regs.status } } := by
    intro u
    simp only [pumpEmit]
    split <;> rfl
  simp only [pumpCycle]
  split
  · rfl
  · split
    · split
      · rw [emit]; rfl
      · rfl
    · split
      · rw [emit]; rfl
      · rfl

/-- The delivery of a trigger changes the flags and `STATUS`, and nothing else. -/
theorem deliver_frame (t : Trig) (s : State) :
    deliver t s = { s with
      regs := { s.regs with
        startF := s.regs.startF || decide (t = .lineReady)
        lineF := s.regs.lineF || decide (t = .nextLine)
        frameF := s.regs.frameF || decide (t = .frameReady)
        status := (deliver t s).regs.status } } := by
  obtain ⟨_, _, _, _, _, _, ⟨_, _, lf, ff, sf, _, _, _, _, _, _, _, _, _⟩, _, _, _⟩ := s
  cases t <;> cases lf <;> cases ff <;> cases sf <;> rfl

end Sys2Proof.Laws
end

