-- ==== Sys2Proof/Tests/Slice0.lean ====
section
/-! SUPPORT. The model's own tests. Expected values come from the tables of `95_test_vectors.md` (the vector is
named at each test) or from hand calculation with the rule named. A `witness_` theorem shows a concrete state and
operands that meet the hypotheses of the obligation it names, one for each clause, at boundary values. -/

namespace Sys2Proof.Tests

open Sys2Proof Sys2Proof.Machine Sys2Proof.Safety

/-! ## Helpers -/

/-- The next state of an outcome, or the given one. -/
def after (o : Host.Outcome State Fault Refusal) (d : State) : State :=
  match o with
  | .next s => s
  | .fault _ => d
  | .refused _ => d

/-- The outcome is a next state. -/
def isNext (o : Host.Outcome State Fault Refusal) : Bool :=
  match o with
  | .next _ => true
  | .fault _ => false
  | .refused _ => false

/-- The configuration after `construct`, the acting producer 0 and a successful draw of `RES_OK` to come. -/
def fresh (c : Config) : State :=
  { State.ofConfig c with env := { (State.ofConfig c).env with draws := [true] } }

/-- The configuration right after `INIT`. -/
def live (c : Config) : State := after (execInit (fresh c)) (fresh c)

/-- The state with agent `a` next in the schedule. -/
def turn (a : Agent) (s : State) : State := { s with env := { s.env with sched := [a] } }

/-- The state with producer 0 asked for `r`. -/
def asked (r : Request) (s : State) : State := { s with producers := [⟨.idle, [r], 0⟩] }

/-- The state with producer 0 in command state `c`. -/
def busyWith (c : Cmd) (s : State) : State := { s with producers := [⟨c, [], 0⟩] }

/-- The state after a command by producer 0. -/
def did (i : Instr) (s : State) : State := after (exec i s) s

/-- The state after a turn of `a`. -/
def took (a : Agent) (s : State) : State := after (agentTurn a s) s

/-- `STATUS` after a command. -/
def statusAfter (i : Instr) (s : State) : BitVec 11 := (did i s).regs.status

/-- A frame-buffer word `w` at `a`. -/
def put (a w : Word) (s : State) : State := { s with mem := memWrite s.mem a .word w }

/-! ## WellFormed: one ill-formed term for each check -/

theorem test_wf_ex1 : Config.ex1.wf = true := by decide
theorem test_wf_ex2 : Config.ex2.wf = true := by decide
theorem test_wf_width : Config.okWidth { Config.ex1 with width := 2 } = false := by decide
theorem test_wf_width_odd : Config.okWidth { Config.ex1 with width := 5 } = false := by decide
theorem test_wf_width_indexed : Config.okWidth { Config.ex2 with width := 6 } = false := by decide
theorem test_wf_height : Config.okHeight { Config.ex1 with height := 0 } = false := by decide
theorem test_wf_height_shift : Config.okHeight { Config.ex1 with height := 3, rowShift := true } = false := by decide
theorem test_wf_vertical : Config.okVertical { Config.ex1 with vfpLines := 0 } = false := by decide
theorem test_wf_horizontal : Config.okHorizontal { Config.ex1 with hFront := 2 } = false := by decide
theorem test_wf_phase_long : Config.okHorizontal { Config.ex1 with hBack := 0x10003 } = false := by decide
theorem test_wf_display : Config.okHorizontal { Config.ex1 with hDisplay := 7 } = false := by decide
theorem test_wf_backlight : Config.okBacklight { Config.ex1 with pwmTop := 939 } = false := by decide
theorem test_wf_queues : Config.okQueues { Config.ex2 with ploDepth := 0 } = false := by decide
theorem test_wf_clock : Config.okClock { Config.ex1 with clkdiv := 0 } = false := by decide
theorem test_wf_producers : Config.okProducers { Config.ex1 with nprod := 0 } = false := by decide
theorem test_wf_windows : Config.okWindows { Config.ex1 with regBase := 0x40000080 } = false := by decide
theorem test_wf_map : Config.okMap { Config.ex1 with dmaBase := 0x40000000 } = false := by decide
theorem test_wf_fb0 : Config.okFb0 { Config.ex1 with fb0 := 0x2000FFC4 } = false := by decide
theorem test_wf_palette : Config.okPalette { Config.ex2 with paletteBase := 0x20000200 } = false := by decide
theorem test_wf_counters : Config.okCounters { Config.ex1 with vpLines := 0x10000 } = false := by decide
theorem test_wf_timing_word : timingWordOk 0x00100000 = false := by decide
theorem test_wf_command_word : commandWordOk 0x00000101 = false := by decide
/-- `95_test_vectors.md` 3.9.1: `PF_DEPTH = 4` breaks the capacity bound and is admitted. -/
theorem test_capacity_is_not_checked :
    Config.capacityOk { Config.ex1 with pfDepth := 4 } = false ∧
      Config.wf { Config.ex1 with pfDepth := 4 } = true := by decide

/-! ## Decoding: words written out bit by bit from `30_encoding.md` R300, R301, R320 (vectors 3.1.1, 3.7.1) -/

theorem test_decode_twNone :
    decode (.timing 0b0000_0000_0000_00_0_1_0000000000000001) = .ok (.twNone 1 true false) := rfl
theorem test_decode_twLineReady :
    decode (.timing 0b0000_0000_0000_01_1_1_0000000000000011) = .ok (.twLineReady 3 true true) := rfl
theorem test_decode_twNextLine :
    decode (.timing 0b0000_0000_0000_10_1_0_0000000000000101) = .ok (.twNextLine 5 false true) := rfl
theorem test_decode_twFrameReady :
    decode (.timing 0b0000_0000_0000_11_0_1_1111111111111111) = .ok (.twFrameReady 0xFFFF true false) := rfl
theorem test_decode_timing_reserved : decode (.timing 0x80000005) = .error .reservedTimingWord := rfl
theorem test_decode_init : decode (.command ⟨0x00000001, 9, 9, 9, 9⟩) = .ok .init := rfl
theorem test_decode_teardown : decode (.command ⟨0x00000002, 9, 9, 9, 9⟩) = .ok .teardown := rfl
theorem test_decode_setFramebuffer :
    decode (.command ⟨0x00000003, 0x20002000, 9, 9, 9⟩) = .ok (.setFramebuffer 0x20002000) := rfl
theorem test_decode_waitVsync : decode (.command ⟨0x00000004, 9, 9, 9, 9⟩) = .ok .waitVsync := rfl
theorem test_decode_setPalette :
    decode (.command ⟨0x00000005, 3, 0x00FF0000, 9, 9⟩) = .ok (.setPalette 3 0x00FF0000) := rfl
theorem test_decode_setBacklight : decode (.command ⟨0x00000006, 128, 9, 9, 9⟩) = .ok (.setBacklight 128) := rfl
theorem test_decode_update :
    decode (.command ⟨0x00000007, 0x20004000, 2, 0x20005000, 9⟩) = .ok (.update 0x20004000 2 0x20005000) := rfl
theorem test_decode_partialUpdate :
    decode (.command ⟨0x00000008, 0x20004000, 1, 0x00030002, 0x00050004⟩) =
      .ok (.partialUpdate 0x20004000 1 2 3 4 5) := rfl
theorem test_decode_command_reserved : decode (.command ⟨0x00000009, 0, 0, 0, 0⟩) = .error .reservedCommandWord := rfl

/-- The host's view: the first word of a row and its operand words. -/
theorem test_table_words :
    decodeTableWord 32 0x000C0003 = some (.twFrameReady 3 false false) ∧
    decodeTableWord 32 0x00000001 = some .init ∧
    decodeTableWord 160 (8 + 2 ^ 32 * 7 + 2 ^ 64 * 1 + 2 ^ 96 * 0x00020003) =
      some (.partialUpdate 7 1 3 2 0 0) ∧
    decodeTableWord 32 0x00100000 = none := ⟨rfl, rfl, rfl, rfl⟩

/-- A placed instruction is the one the next step runs, from reset. -/
theorem test_placed_command_runs :
    (after (step (State.reset.withFetchWord 32 3)) State.reset).regs.status = 0x004 ∧
    (after (step (State.reset.withFetchWord 64 (3 + 2 ^ 32 * 0x20002000))) State.reset).regs.pendAddr = 0x20002000 := by
  decide
theorem test_placed_word_runs :
    (after (step (State.reset.withFetchWord 32 0x000C0003)) State.reset).tgen.remain = 5 ∧
    (after (step (State.reset.withFetchWord 32 0x000C0003)) State.reset).tgen.tq = [] := by decide

/-! ## Timing words and the tick -/

/-- Vector 3.2.3: the first tick pops `FP 0` and leaves `TG_REMAIN = 3`. -/
theorem test_tick_first :
    let s := took .tick { live Config.ex1 with
      tgen := { en := true, word := 0, remain := 0, hs := false, vs := true, tq := [0x00010001, 2] } }
    s.tgen = { en := true, word := 0x00010001, remain := 3, hs := true, vs := false, tq := [2] } := by decide

/-- A word of trigger `t` in its last cycle, its flag set or not. -/
def lastCycle (t : Trig) (set : Bool) : State :=
  { live Config.ex1 with
    tgen := { en := true, word := timingWord t true true 5, remain := 1, hs := false, vs := false, tq := [] }
    regs := { (live Config.ex1).regs with lineF := set, frameF := set, startF := set }
    pump := { (live Config.ex1).pump with en := false } }

/-- Vector 3.2.5: `LINE_LOST`, `START_LOST`, `FRAME_LOST`; nothing for `TW.NONE`. -/
theorem test_lost_none :
    (took .tick (lastCycle .none true)).regs = (lastCycle .none true).regs := by decide
theorem test_lost_line :
    (took .tick (lastCycle .nextLine true)).regs.status = 0x020 ∧
    (took .tick (lastCycle .nextLine false)).regs.status = 0 ∧
    (took .tick (lastCycle .nextLine false)).regs.lineF = true := by decide
theorem test_lost_start :
    (took .tick (lastCycle .lineReady true)).regs.status = 0x080 ∧
    (took .tick (lastCycle .lineReady false)).regs.startF = true := by decide
theorem test_lost_frame :
    (took .tick (lastCycle .frameReady true)).regs.status = 0x040 ∧
    (took .tick (lastCycle .frameReady false)).regs.frameF = true := by decide

/-- Vector 3.2.4: an empty queue raises `TQ_UNDERRUN` and holds the levels. -/
theorem test_stall :
    let s := { live Config.ex1 with
      tgen := { en := true, word := 0x00010005, remain := 0, hs := true, vs := false, tq := [] } }
    (took .tick s).regs.status = 0x008 ∧ (took .tick s).tgen = s.tgen := by decide

/-- Vector 3.1.2: the four words of line 7 of `EX1`, and `FP 0`. -/
theorem test_sequencer_words :
    Tseq.word Config.ex1 ⟨true, 0, 7⟩ = 0x00030001 ∧ Tseq.word Config.ex1 ⟨true, 1, 7⟩ = 0x00020002 ∧
    Tseq.word Config.ex1 ⟨true, 2, 7⟩ = 0x00030003 ∧ Tseq.word Config.ex1 ⟨true, 3, 7⟩ = 0x000F0005 ∧
    Tseq.word Config.ex1 ⟨true, 0, 0⟩ = 0x00010001 ∧ Tseq.word Config.ex1 ⟨true, 2, 3⟩ = 0x00070003 ∧
    Tseq.word Config.ex1 ⟨true, 3, 2⟩ = 0x000B0005 := by decide
/-- Vector S3: the step at (3, 8) sets `timing_row` to 0. -/
theorem test_sequencer_wraps : Tseq.advance Config.ex1 ⟨true, 3, 8⟩ = ⟨true, 0, 0⟩ := by decide

/-! ## The pump -/

/-- The pump of `EX2` shifting, with `left` pixels to go and `pf` queued. -/
def shifting2 (left : BitVec 16) (pf : List Word) : State :=
  { live Config.ex2 with pump := { (live Config.ex2).pump with st := .shift, left := left, pf := pf } }

/-- Vector 3.3.4: `PIX` of a palette entry, bits 13:0 ignored; the last pixel ends the line. -/
theorem test_pump_indexed :
    (pumpCycle false (shifting2 1 [0xF8004ABC])).pump =
      { en := true, st := .waitStart, left := 0, hv := false, hi := 0, pf := [], pixv := true, pix := 0x3E001 } := by
  decide

/-- Vector 3.3.2: the low half first, the high half held. -/
theorem test_pump_direct :
    let s := { live Config.ex1 with pump := { (live Config.ex1).pump with st := .shift, left := 8, pf := [0x00020001] } }
    (pumpCycle false s).pump.hi = 0x0002 ∧ (pumpCycle false s).pump.hv = true ∧ (pumpCycle false s).pump.pf = [] ∧
      (pumpCycle false s).pump.left = 7 := by decide

/-- Vector 3.3.5: an empty `PF` raises `PIX_UNDERRUN` and keeps the line. -/
theorem test_pump_underrun :
    (pumpCycle false (shifting2 3 [])).regs.status = 0x010 ∧ (pumpCycle false (shifting2 3 [])).pump.left = 3 ∧
      (pumpCycle false (shifting2 3 [])).pump.pixv = false := by decide

/-! ## The palette -/

/-- Vector 3.4.3. -/
theorem test_encPal8 :
    encPal8 255 0 0 = 0xF8004000 ∧ encPal8 0 255 0 = 0x07E00000 ∧ encPal8 0 0 255 = 0x001F8000 ∧
    encPal8 8 4 4 = 0x0820C000 ∧ encPal8 128 128 128 = 0x84100000 ∧ encColour 0xFF123456 = 0x11AA8000 := by decide
theorem test_encPal6 : encPal6 63 0 0 = 0xF8004000 ∧ encPal6 2 1 1 = 0x0820C000 := by decide

/-- Vectors 3.4.1, 3.4.2: load, and the lookups of indices 0 and 255. -/
theorem test_plu :
    Plu.load ⟨true, 0, 0, [0x03020100], []⟩ = ⟨true, 0x03020100, 4, [], []⟩ ∧
    Plu.lookup Config.ex2 ⟨true, 0x03020100, 4, [], []⟩ = ⟨true, 0x03020100, 3, [], [0x20000400]⟩ ∧
    Plu.lookup Config.ex2 ⟨true, 0xFF000000, 1, [], []⟩ = ⟨true, 0xFF000000, 0, [], [0x200007FC]⟩ := by decide

/-! ## The DMA chain -/

/-- Vector 3.5.1: what `INIT` programs in `EX1` and `EX2`. -/
theorem test_init_channels :
    (live Config.ex1).dma.a.readAddr = 0x20001000 ∧ (live Config.ex1).dma.a.writeAddr = 0x40000040 ∧
    (live Config.ex1).dma.a.ctrl.toWord = 0x137 ∧ (live Config.ex1).dma.b.readAddr = 0x40000010 ∧
    (live Config.ex1).dma.b.writeAddr = 0x50000010 ∧ (live Config.ex1).dma.b.ctrl.toWord = 0x101 ∧
    (live Config.ex2).dma.a.ctrl.toWord = 0x147 ∧ (live Config.ex2).dma.c.readAddr = 0x40000048 ∧
    (live Config.ex2).dma.c.writeAddr = 0x500000D0 ∧ (live Config.ex2).dma.c.ctrl.toWord = 0x263 ∧
    (live Config.ex2).dma.d.writeAddr = 0x40000040 ∧ (live Config.ex2).dma.d.ctrl.toWord = 0x221 := by decide

/-- Vector 3.5.3: A's transfer, and B's reload. -/
theorem test_dma_transfer :
    let s := put 0x20001000 0x00020001 (live Config.ex1)
    (took (.dma .a) s).pump.pf = [0x00020001] ∧ (took (.dma .a) s).dma.a.readAddr = 0x20001004 ∧
      (took (.dma .a) s).dma.a.remain = 3 := by decide

/-- Vector 3.5.7: a full `PF`, an empty `PLO`, an unmapped load. -/
theorem test_dma_faults :
    (portStore { live Config.ex1 with pump := { (live Config.ex1).pump with pf := [1, 2] } } 0x40 3).regs.status = 0x200 ∧
    (dmaLoad (live Config.ex2) 0x40000048).1 = 0 ∧ (dmaLoad (live Config.ex2) 0x40000048).2.regs.status = 0x200 ∧
    (dmaLoad (live Config.ex1) 0x30000000).1 = 0 ∧ (dmaLoad (live Config.ex1) 0x30000000).2.regs.status = 0x400 := by
  decide

/-! ## The dispatcher -/

/-- `EX1` live, at display row `r`, with the given flags and a pending buffer. -/
def pending (line frame : Bool) (r : BitVec 16) : State :=
  { live Config.ex1 with
    regs := { (live Config.ex1).regs with
      lineF := line
      frameF := frame
      displayRow := r
      linePtr := rowPointer Config.ex1 0x20001000 r.toNat
      pendAddr := 0x20002000
      pendValid := true
      vsWait := true } }

/-- Vector 3.6.1. -/
theorem test_line_transition :
    (took .disp (pending true false 1)).regs.linePtr = 0x20001020 ∧ (took .disp (pending true false 1)).regs.displayRow = 2 ∧
    (took .disp (pending true false 3)).regs.linePtr = 0 ∧ (took .disp (pending true false 4)).regs.displayRow = 4 := by
  decide

/-- Vectors 3.6.2, 3.6.3. -/
theorem test_frame_transition :
    let t := took .disp (pending true true 4)
    t.regs.liveBase = 0x20002000 ∧ t.regs.linePtr = 0x20002000 ∧ t.regs.pendValid = false ∧
    t.regs.pendAddr = 0x20002000 ∧ t.regs.displayRow = 0 ∧ t.regs.vsWait = false ∧ t.regs.frameF = false ∧
    t.regs.lineF = true ∧ t.dma.a.readAddr = 0x20002000 ∧ t.dma.a.remain = 4 ∧
    (took .disp t).regs.linePtr = 0x20002010 := by decide

/-! ## Host commands -/

/-- Vector 3.7.2. -/
theorem test_init :
    ctrlWord (live Config.ex1) = 1 ∧ inteWord (live Config.ex1) = 3 ∧ (live Config.ex1).regs.linePtr = 0x20001000 ∧
    statusAfter .init (live Config.ex1) = 0x002 := by decide
theorem test_init_fatal :
    let s := did .init { fresh Config.ex1 with env := { (fresh Config.ex1).env with draws := [false] } }
    s.regs.status = 0x001 ∧ s.regs.run = false ∧ s.dma.a = .zero ∧ isNext (step s) = false := by decide

/-- Vector 3.7.3. -/
theorem test_teardown :
    (did .teardown (live Config.ex1)).dma.a.ctrl.toWord = 0x134 ∧
    (did .teardown (live Config.ex1)).dma.b.ctrl.toWord = 0x100 ∧
    inteWord (did .teardown (live Config.ex1)) = 0 ∧
    (did .teardown (live Config.ex1)).regs.linePtr = 0x20001000 := by decide

/-- Vector 3.7.4. -/
theorem test_setFramebuffer :
    (did (.setFramebuffer 0x2000FFC0) (fresh Config.ex1)).regs.pendAddr = 0x2000FFC0 ∧
    (did (.setFramebuffer 0x2000FFC0) (fresh Config.ex1)).regs.pendValid = true ∧
    statusAfter (.setFramebuffer 0x2000FFC4) (fresh Config.ex1) = 0x004 ∧
    statusAfter (.setFramebuffer 0x20002002) (fresh Config.ex1) = 0x004 ∧
    statusAfter (.setFramebuffer 0x10000000) (fresh Config.ex1) = 0x004 := by decide

/-- Vector 3.7.5: the second step is not enabled before a frame transition. -/
theorem test_waitVsync :
    let s := did .waitVsync (live Config.ex1)
    s.regs.vsWait = true ∧ enabled (.producer 0) s = false ∧
    enabled (.producer 0) (took .disp { s with regs := { s.regs with frameF := true } }) = true := by decide

/-- Vector 3.7.6. -/
theorem test_setPalette :
    memRead (did (.setPalette 3 0x00FF0000) (fresh Config.ex2)).mem 0x2000040C .word = 0xF8004000 ∧
    memRead (did (.setPalette 255 0xFFFFFFFF) (fresh Config.ex2)).mem 0x200007FC .word = 0xFFFFC000 ∧
    statusAfter (.setPalette 256 0) (fresh Config.ex2) = 0x004 ∧
    statusAfter (.setPalette 3 0) (fresh Config.ex1) = 0x002 := by decide

/-- Vector 3.7.7. -/
theorem test_setBacklight :
    (did (.setBacklight 0) (fresh Config.ex1)).regs.blDuty = 0 ∧ (did (.setBacklight 1) (fresh Config.ex1)).regs.blDuty = 181 ∧
    (did (.setBacklight 85) (fresh Config.ex1)).regs.blDuty = 266 ∧
    (did (.setBacklight 254) (fresh Config.ex1)).regs.blDuty = 940 ∧
    (did (.setBacklight 255) (fresh Config.ex1)).regs.blDuty = 1000 ∧
    statusAfter (.setBacklight 256) (fresh Config.ex1) = 0x004 := by decide

/-- Vector 3.7.8. -/
theorem test_update_checks :
    statusAfter (.update 0x20004000 0 0) (fresh Config.ex1) = 0x004 ∧
    statusAfter (.update 0x20004002 1 0) (fresh Config.ex1) = 0x004 ∧
    statusAfter (.update 0x2000FFC0 1 0) (fresh Config.ex1) = 0 ∧
    statusAfter (.update 0x2000FFC0 2 0) (fresh Config.ex1) = 0x004 ∧
    statusAfter (.update 0x20004000 1 0x2000FC04) (fresh Config.ex2) = 0x004 ∧
    (did (.update 0x20004000 1 0x20005000) (fresh Config.ex2)).regs.vsWait = true := by decide

/-- Vectors 3.7.9 and 3.7.10. -/
theorem test_boundary :
    boundary Config.ex1 0 0x20001000 = 64 ∧ boundary Config.ex1 0x20001000 0x20001000 = 64 ∧
    boundary Config.ex1 0x20001010 0x20001000 = 0 ∧ boundary Config.ex1 0x20001030 0x20001000 = 32 ∧
    boundary Config.ex1 0x20003000 0x20001000 = 64 ∧ boundary Config.ex1 0x20000FF0 0x20001000 = 64 ∧
    boundary Config.ex1 0x20001008 0x20001000 = 0 := by decide
theorem test_update_copy :
    let s := put 0x20004040 0x000000F0 (put 0x20004000 0x56781234 (fresh Config.ex1))
    let t0 := took (.producer 0) (busyWith (.uCopy 0x20004000 2 0x20001000 0 64) s)
    let t2 := took (.producer 0) (busyWith (.uCopy 0x20004000 2 0x20001000 2 64) s)
    memRead t0.mem 0x20001000 .half = 0x00F0 ∧ memRead t2.mem 0x20001002 .half = 0x5678 := by decide

/-- Vector 3.7.13: the offsets copied, and the refusals. -/
theorem test_partialUpdate :
    let s := put 0x20004014 0x22221111 (fresh Config.ex1)
    let s1 := took (.producer 0) (did (.partialUpdate 0x20004000 1 2 1 2 1) s)
    memRead s1.mem 0x20001014 .word = 0x00001111 ∧
    memRead (took (.producer 0) s1).mem 0x20001014 .word = 0x22221111 ∧
    (took (.producer 0) s1).producers = [⟨.idle, [], 0⟩] := by decide
theorem test_partialUpdate_checks :
    statusAfter (.partialUpdate 0x20004000 1 7 0 2 1) (fresh Config.ex1) = 0x004 ∧
    statusAfter (.partialUpdate 0x20004000 1 0 3 1 2) (fresh Config.ex1) = 0x004 ∧
    statusAfter (.partialUpdate 0x20004000 2 0 0 1 1) (fresh Config.ex1) = 0x002 ∧
    (did (.partialUpdate 0x20004000 1 3 2 0 1) (fresh Config.ex1)).producers = (fresh Config.ex1).producers := by decide

/-! ## Witnesses: the hypotheses of the obligations can be met -/

/-- `EX1` and `EX2` right after `INIT` are legal. -/
theorem witness_legal_ex1 : Legal (live Config.ex1) where
  memory := by decide
  queues := by decide
  timing := by decide
  scan := by decide
  pump := by decide
  backlight := by decide
  engines := by decide
  chain := ⟨by decide, by decide, by decide⟩
  producers := by
    intro p hp
    have : p = .zero := by simpa using (show p ∈ [Producer.zero] from hp)
    rw [this]
    exact trivial

theorem witness_legal_ex2 : Legal (live Config.ex2) where
  memory := by decide
  queues := by decide
  timing := by decide
  scan := by decide
  pump := by decide
  backlight := by decide
  engines := by decide
  chain := ⟨by decide, by decide, by decide⟩
  producers := by
    intro p hp
    have : p = .zero := by simpa using (show p ∈ [Producer.zero] from hp)
    rw [this]
    exact trivial

/-- `EX1` and `EX2` live and legal, with `TSEQ` next. -/
theorem witness_steps : Legal (turn .tseq (live Config.ex1)) ∧ isNext (step (turn .tseq (live Config.ex1))) = true ∧
    Legal (turn (.dma .c) (live Config.ex2)) ∧ isNext (step (turn (.dma .c) (live Config.ex2))) = true :=
  ⟨⟨witness_legal_ex1.memory, witness_legal_ex1.queues, witness_legal_ex1.timing, witness_legal_ex1.scan,
      witness_legal_ex1.pump, witness_legal_ex1.backlight, witness_legal_ex1.engines,
      ⟨witness_legal_ex1.chain.programmed, witness_legal_ex1.chain.runs, witness_legal_ex1.chain.addresses⟩,
      witness_legal_ex1.producers⟩, by decide,
    ⟨witness_legal_ex2.memory, witness_legal_ex2.queues, witness_legal_ex2.timing, witness_legal_ex2.scan,
      witness_legal_ex2.pump, witness_legal_ex2.backlight, witness_legal_ex2.engines,
      ⟨witness_legal_ex2.chain.programmed, witness_legal_ex2.chain.runs, witness_legal_ex2.chain.addresses⟩,
      witness_legal_ex2.producers⟩, by decide⟩

/-- For `StepKeepsMemoryCanonical`, `StepKeepsQueuesBounded`, `StepKeepsTimingLegal`, `StepKeepsScanLegal`,
`StepKeepsPumpLegal`, `StepKeepsEnginesLegal`, `StepKeepsChainLegal`, `StepKeepsProducersLegal`,
`StatusIsStickyAndConfigFixed` and `OnlyProducersWriteMemory`: a legal state with a step to a next state that is
no producer's. -/
theorem witness_StepKeeps : MemoryCanonical (turn .tseq (live Config.ex1)) ∧
    QueuesBounded (turn .tseq (live Config.ex1)) ∧ TimingLegal (turn .tseq (live Config.ex1)) ∧
    ScanLegal (turn .tseq (live Config.ex1)) ∧ PumpLegal (turn .tseq (live Config.ex1)) ∧
    BacklightLegal (turn .tseq (live Config.ex1)) ∧ EnginesLegal (turn .tseq (live Config.ex1)) ∧
    ChainLegal (turn .tseq (live Config.ex1)) ∧ ProducersLegal (turn .tseq (live Config.ex1)) ∧
    chosen (turn .tseq (live Config.ex1)) = .tseq ∧ isNext (step (turn .tseq (live Config.ex1))) = true :=
  ⟨witness_steps.1.memory, witness_steps.1.queues, witness_steps.1.timing, witness_steps.1.scan,
    witness_steps.1.pump, witness_steps.1.backlight, witness_steps.1.engines, witness_steps.1.chain,
    witness_steps.1.producers, by decide, witness_steps.2.1⟩

/-- The outcome is the refusal `r`. -/
def isRefusedAs (r : Refusal) : Host.Outcome State Fault Refusal → Bool
  | .refused q => decide (q = r)
  | _ => false

/-- A producer that stores to a register, in a legal state. -/
def badStore : State := turn (.producer 0) (asked (.store 0x40000010 .word 0) (live Config.ex1))

theorem witness_OnlyBadAccessesAreRefused : Legal badStore ∧
    isRefusedAs .windowStore (step badStore) = true :=
  ⟨⟨by decide, by decide, by decide, by decide, by decide, by decide, by decide,
    ⟨by decide, by decide, by decide⟩, by
      intro p hp
      have : p = ⟨.idle, [.store 0x40000010 .word 0], 0⟩ := by
        simpa using (show p ∈ [(⟨.idle, [.store 0x40000010 .word 0], 0⟩ : Producer)] from hp)
      rw [this]
      exact trivial⟩, by decide⟩

/-- For `SharedRegistersHaveOneWriter`: each register changes in some step. -/
theorem witness_SharedRegistersHaveOneWriter :
    (after (step (turn .disp (pending true true 4))) State.reset).regs.liveBase ≠ (pending true true 4).regs.liveBase ∧
    (after (step (turn .disp (pending true true 4))) State.reset).regs.vsWait = false ∧
    (after (step (turn .disp (pending true false 1))) State.reset).regs.linePtr ≠ (pending true false 1).regs.linePtr ∧
    (after (step (turn (.producer 0) (asked (.command ⟨1, 0, 0, 0, 0⟩) (fresh Config.ex1)))) State.reset).regs.linePtr ≠
      (fresh Config.ex1).regs.linePtr := by decide

theorem witness_ConstructLeavesTheResetValues : Config.ex1.wf = true ∧ Config.ex2.wf = true := by decide

theorem witness_BadGeometryIsRefused :
    ¬4 ≤ Config.width { Config.ex1 with width := 2 } ∧
    ¬(Config.height { Config.ex1 with height := 3, rowShift := true } % 2 = 0) ∧
    Config.wf { Config.ex1 with width := 4, rotation := 90 } = true ∧
    ¬1 ≤ Config.vfpLines { Config.ex1 with vfpLines := 0 } ∧
    ¬(Config.hPulse { Config.ex1 with hPulse := 0x10003 } ≤ 0xFFFF + 3) ∧
    ¬940 ≤ (Config.pwmTop { Config.ex1 with pwmTop := 939 }).toNat ∧
    ¬(Config.fb0 { Config.ex1 with fb0 := 0x20001002 }).toNat % 4 = 0 ∧
    (Config.ex2.mode = .indexed ∧ ¬(Config.paletteBase { Config.ex2 with paletteBase := 0x20000200 }).toNat % 1024 = 0) := by
  decide

theorem witness_EncodeOfDecode :
    decode (.timing 0x000FFFFF) = .ok (.twFrameReady 0xFFFF true true) ∧
    decode (.command ⟨5, 3, 4, 5, 6⟩) = .ok (.setPalette 3 4) ∧ argCount (.setPalette 3 4) = 2 ∧
    decode (.command ⟨8, 1, 1, 0x00020003, 0x00040005⟩) = .ok (.partialUpdate 1 1 3 2 5 4) ∧
    argCount (.partialUpdate 1 1 3 2 5 4) = 4 := ⟨rfl, rfl, rfl, rfl, rfl⟩

theorem witness_StepRunsTheCommand :
    let s := turn (.producer 0) (asked (.command ⟨6, 255, 0, 0, 0⟩) (live Config.ex1))
    isStopped s = false ∧ chosen s = .producer 0 ∧
    s.producers[0]? = some ⟨.idle, [.command ⟨6, 255, 0, 0, 0⟩], 0⟩ ∧
    ∀ r ∈ [.load 0x20001000 .word, .load 0x40000001 .word, .store 0x20001000 .word 5, .store 0x40000000 .word 5],
      let u := turn (.producer 0) (asked r (live Config.ex1))
      isStopped u = false ∧ chosen u = .producer 0 ∧ u.producers[0]? = some ⟨.idle, [r], 0⟩ := by decide

/-- For `StepRunsTheCommand`: accesses that are made and accesses that are refused. -/
theorem witness_accesses :
    let s := live Config.ex1
    producerLoad s 0x20001000 .word = .ok 0 ∧ producerLoad s 0x40000001 .word = .error .misalignedAccess ∧
    producerStore s 0x20001000 .word 5 = .ok { s with mem := memWrite s.mem 0x20001000 .word 5 } ∧
    producerStore s 0x40000000 .word 5 = .error .windowStore := by decide

theorem witness_StepRunsTheTimingWord :
    let s := turn .tick (lastCycle .none false)
    let z := turn .tick { lastCycle .none false with tgen := ⟨true, 0, 0, false, false, [0x000FFFFF]⟩ }
    let b := turn .tick { lastCycle .none false with tgen := ⟨true, 0, 0, false, false, [0x00100000]⟩ }
    isStopped s = false ∧ chosen s = .tick ∧ s.tgen.en = true ∧ s.tgen.remain ≠ 0 ∧
    isStopped z = false ∧ chosen z = .tick ∧ z.tgen.remain = 0 ∧ 2 ^ 20 ≤ (0x00100000 : Word).toNat ∧
    isStopped b = false ∧ chosen b = .tick ∧ b.tgen.remain = 0 := by decide

/-- `EX1` live under the real-time premise, `TSEQ` enabled. -/
def premised (a : Agent) : State :=
  { turn a (live Config.ex1) with env := { (turn a (live Config.ex1)).env with policy := .premise } }

/-- R1020: the tick is put off and keeps its turn, a producer is not. -/
theorem test_premise :
    chosen (premised .tick) = .tseq ∧ (takeTurn (premised .tick)).env.sched = [.tick] ∧
    chosen (premised (.producer 0)) = .producer 0 ∧ (takeTurn (premised (.producer 0))).env.sched = [] ∧
    chosen { lastCycle .none false with
      env := (premised .tick).env, tseq := ⟨false, 0, 0⟩, dma := ⟨.zero, .zero, .zero, .zero⟩ } = .tick := by decide

/-- For `TimingWordTick`: the word in execution. -/
theorem witness_TimingWordTick :
    (lastCycle .nextLine true).tgen.remain ≠ 0 ∧
    (lastCycle .nextLine true).tgen.word = timingWord .nextLine true true 5 := by decide

theorem witness_ReservedCommandOnlySetsUnsupported :
    (asked (.command ⟨0, 0, 0, 0, 0⟩) (live Config.ex1)).producers[0]? = some ⟨.idle, [.command ⟨0, 0, 0, 0, 0⟩], 0⟩ ∧
    (0 : Word).toNat = 0 ∧ 9 ≤ (9 : Word).toNat := by decide

theorem witness_FatalStopEndsTheRun :
    let s := { fresh Config.ex1 with env := { (fresh Config.ex1).env with draws := [false] } }
    s.cfg.wf = true ∧ s.regs.run = false ∧ resOk s = false ∧ (did .init s).regs.status.getLsbD 0 = true := by decide

theorem witness_WordLastsItsCountPlusThree :
    (live Config.ex1).tgen.remain = 0 ∧ 1 ≤ 3 ∧ 3 ≤ (0 : BitVec 16).toNat + 3 ∧
      (1 ≤ 0x10002 ∧ 0x10002 ≤ (0xFFFF : BitVec 16).toNat + 3) := by decide

theorem witness_LostTriggersAreReported : (lastCycle .nextLine true).tgen.remain = 1 := by decide

theorem witness_EmptyQueueStallsTheTick :
    let s := { live Config.ex1 with tgen := { (live Config.ex1).tgen with en := true } }
    s.tgen.en = true ∧ s.tgen.remain = 0 ∧ s.tgen.tq = [] := by decide

theorem witness_PumpWaitsOrStalls :
    (fresh Config.ex1).pump.en = false ∧
    ((live Config.ex1).pump.st = .waitStart ∧ (live Config.ex1).pump.en = true) ∧
    ((shifting2 1 []).pump.en = true ∧ (shifting2 1 []).pump.st = .shift ∧ (shifting2 1 []).pump.pf = []) := by decide

theorem witness_PumpStartsOnTheLatch :
    let s := { live Config.ex1 with pump := { (live Config.ex1).pump with pf := [0x00020001] } }
    s.cfg.wf = true ∧ s.cfg.mode = .direct ∧ s.pump.en = true ∧ s.pump.st = .waitStart ∧ s.pump.hv = false ∧
    (let z := live Config.ex2
     z.cfg.wf = true ∧ z.cfg.mode = .indexed ∧ z.pump.en = true ∧ z.pump.st = .waitStart ∧ z.pump.hv = false ∧
      z.pump.pf = []) ∧
    (let z := { live Config.ex2 with pump := { (live Config.ex2).pump with pf := [0xF8004000] } }
     z.cfg.wf = true ∧ z.cfg.mode = .indexed ∧ z.pump.en = true ∧ z.pump.st = .waitStart ∧ z.pump.hv = false) := by
  decide

theorem witness_PumpEmitsOnePixel :
    let d := { live Config.ex1 with pump := { (live Config.ex1).pump with st := .shift, left := 1, hv := true } }
    let e := { live Config.ex1 with pump := { (live Config.ex1).pump with st := .shift, left := 2, pf := [5] } }
    (d.pump.en = true ∧ d.pump.st = .shift ∧ d.cfg.mode = .direct ∧ d.pump.hv = true) ∧
    (e.pump.en = true ∧ e.pump.st = .shift ∧ e.cfg.mode = .direct ∧ e.pump.hv = false ∧ e.pump.pf = [5]) ∧
    ((shifting2 1 [7]).pump.en = true ∧ (shifting2 1 [7]).pump.st = .shift ∧ (shifting2 1 [7]).cfg.mode = .indexed ∧
      (shifting2 1 [7]).pump.pf = [7]) := by decide

theorem witness_SequencerPushesThePhaseWord :
    let s := { live Config.ex1 with tseq := ⟨true, 3, 8⟩ }
    s.cfg.wf = true ∧ s.tseq.en = true ∧ s.tgen.tq.length ≠ s.cfg.tqDepth ∧ s.tseq.row.toNat < s.cfg.vFront ∧
      s.tseq.row.toNat + 1 = s.cfg.vFront := by decide

theorem witness_FrameHasItsTriggers :
    Config.ex1.wf = true ∧ (Tseq.mk true 0 0).phase = 0 ∧ (Tseq.mk true 0 0).row = 0 ∧
    countTrig .frameReady (sequence Config.ex1 (4 * Config.ex1.vFront) ⟨true, 0, 0⟩).1 = 1 := by decide

theorem witness_PaletteLoadAndLookup :
    let s := { live Config.ex2 with plu := ⟨true, 0, 0, [7], []⟩ }
    let k0 := { live Config.ex2 with plu := ⟨true, 0, 4, [], [8]⟩ }
    let k3 := { live Config.ex2 with plu := ⟨true, 0, 1, [], []⟩ }
    (s.cfg.mode = .indexed ∧ s.plu.en = true ∧ s.plu.n = 0 ∧ s.plu.pli = [7]) ∧
    (k0.plu.en = true ∧ k0.plu.n.toNat = 4 - 0 ∧ k0.plu.plo.length ≠ k0.cfg.ploDepth) ∧
    (k3.plu.en = true ∧ k3.plu.n.toNat = 4 - 3 ∧ k3.plu.plo.length ≠ k3.cfg.ploDepth) := by decide

theorem witness_PaletteKeepsPixelOrder :
    let s := { live { Config.ex2 with ploDepth := 4 } with plu := ⟨true, 0, 0, [0x03020100], []⟩ }
    s.cfg.wf = true ∧ s.cfg.mode = .indexed ∧ s.plu.en = true ∧ s.plu.n = 0 ∧ s.plu.pli = [0x03020100] ∧
    s.plu.plo.length + 4 ≤ s.cfg.ploDepth := by decide

theorem witness_TriggerAndAbort :
    ((live Config.ex1).chan .a).ctrl.en = true ∧ ((live Config.ex1).chan .a).transCount ≠ 0 ∧
    ((fresh Config.ex1).chan .a).ctrl.en = false ∧
    ({ (live Config.ex1).chan .a with transCount := 0 } : Channel).transCount = 0 ∧ ChanId.b ≠ ChanId.a := by decide

/-- `EX1` with A at the last word of row 0. -/
def lastWord : State :=
  { live Config.ex1 with
    dma := { (live Config.ex1).dma with
      a := { (live Config.ex1).dma.a with readAddr := 0x2000100C, remain := 1 } } }

theorem witness_ChannelAStreamsTheRow :
    (ScanLegal lastWord ∧ ChainLegal lastWord ∧ lastWord.cfg.mode = .direct ∧ lastWord.dma.a.ctrl.busy = true ∧
      lastWord.pump.pf.length ≠ lastWord.cfg.pfDepth) ∧
    ((live Config.ex1).dma.a.ctrl.busy = true ∧ (live Config.ex1).dma.a.remain ≠ 1) ∧
    (ScanLegal (live Config.ex2) ∧ ChainLegal (live Config.ex2) ∧ (live Config.ex2).cfg.mode = .indexed ∧
      (live Config.ex2).dma.a.ctrl.busy = true ∧ (live Config.ex2).plu.pli.length ≠ (live Config.ex2).cfg.pliDepth) :=
  ⟨⟨by decide, ⟨by decide, by decide, by decide⟩, by decide, by decide, by decide⟩, by decide,
    by decide, ⟨by decide, by decide, by decide⟩, by decide, by decide, by decide⟩

/-- `EX1` with A's row done and B about to reload it. -/
def reloading : State := took (.dma .a) lastWord

theorem witness_ChannelBReloadsFromLinePtr :
    ScanLegal reloading ∧ ChainLegal reloading ∧ reloading.dma.b.ctrl.busy = true ∧ reloading.regs.linePtr ≠ 0 :=
  ⟨by decide, ⟨by decide, by decide, by decide⟩, by decide, by decide⟩

/-- `EX2` with an entry address for C, and then D on it. -/
def oneEntry : State :=
  { live Config.ex2 with plu := { (live Config.ex2).plu with plo := [0x200007FC] } }

theorem witness_ChannelsCAndDMoveOnePixel :
    (ScanLegal oneEntry ∧ ChainLegal oneEntry ∧ oneEntry.cfg.mode = .indexed ∧ oneEntry.dma.c.ctrl.busy = true ∧
      oneEntry.plu.plo = [0x200007FC]) ∧
    (ScanLegal (took (.dma .c) oneEntry) ∧ ChainLegal (took (.dma .c) oneEntry) ∧
      (took (.dma .c) oneEntry).dma.d.ctrl.busy = true ∧
      (took (.dma .c) oneEntry).pump.pf.length ≠ (took (.dma .c) oneEntry).cfg.pfDepth) :=
  ⟨⟨by decide, ⟨by decide, by decide, by decide⟩, by decide, by decide, by decide⟩,
    by decide, ⟨by decide, by decide, by decide⟩, by decide, by decide⟩

/-- `EX2` with its palette and RAM at 0, and entry 0 of the palette for C. -/
def zeroEntry : State :=
  let s := live { Config.ex2 with ramBase := 0, fb0 := 0x1000, paletteBase := 0 }
  { s with plu := { s.plu with plo := [0] } }

/-- The null trigger of D (`ChannelsCAndDMoveOnePixel`). -/
theorem witness_nullEntry :
    ScanLegal zeroEntry ∧ ChainLegal zeroEntry ∧ zeroEntry.cfg.mode = .indexed ∧ zeroEntry.dma.c.ctrl.busy = true ∧
      zeroEntry.plu.plo = [0] :=
  ⟨by decide, ⟨by decide, by decide, by decide⟩, by decide, by decide, by decide⟩

theorem witness_BadDmaAccessesAreReported :
    (Config.ex2.wf = true ∧ (0x30000000 : Word).toNat % 4 = 0 ∧ region Config.ex2 0x30000000 4 = .unmapped ∧
      region Config.ex2 0x20010000 4 = .unmapped) ∧
    (Config.ex2.regBase.toNat ≤ (0x4000003C : Word).toNat ∧ (0x4000003C : Word).toNat < Config.ex2.regBase.toNat + 0x40) ∧
    ((0x40000040 : Word).toNat = Config.ex2.regBase.toNat + 0x40 ∧ [1, 2].length = Config.ex2.pfDepth) ∧
    ((0x40000048 : Word).toNat = Config.ex2.regBase.toNat + 0x48 ∧ (live Config.ex2).plu.plo = []) ∧
    ((0x40000044 : Word).toNat = Config.ex2.regBase.toNat + 0x44 ∧ Config.ex2.mode = .indexed ∧
      [1].length = Config.ex2.pliDepth) ∧
    ((0x4000004C : Word).toNat = Config.ex1.regBase.toNat + 0x4C ∧ (0x400000FC : Word).toNat % 4 = 0 ∧
      Config.ex1.wf = true ∧ Config.ex1.mode = .direct) ∧
    ((0x500000FC : Word).toNat = Config.ex2.dmaBase.toNat + 0xFC ∧ 0xFC % 0x40 ≠ 0x10 ∧ 0 % 0x40 ≠ 0x10) := by decide

theorem witness_RegisterWindowReads :
    (live Config.ex1).cfg.wf = true ∧ 0x3C % 4 = 0 ∧ 0x4C % 4 = 0 ∧ 0xFC % 4 = 0 ∧ (0x4C ≤ 0xFC ∧ 0xFC ≤ 0xFC) ∧
    (0x18 % 4 = 0 ∧ 0x18 ≤ 0x18) ∧ (0x3C % 4 = 0 ∧ 0x3C ≤ 0x3C) := by
  decide

theorem witness_ProducerAccesses :
    ((0x2000FFFF : Word).toNat % Size.byte.bytes = 0 ∧ Config.ex1.inRam 0x2000FFFF Size.byte.bytes = true) ∧
    ((0x2000FFFC : Word).toNat % Size.word.bytes = 0 ∧ Config.ex1.inRam 0x2000FFFC Size.word.bytes = true) ∧
    (0x20000002 : Word).toNat % Size.word.bytes ≠ 0 ∧
    ((0x400000FE : Word).toNat % Size.half.bytes = 0 ∧ (0x400000FE : Word).toNat < Config.ex1.regBase.toNat + 0x100) ∧
    (Config.ex1.dmaBase.toNat ≤ (0x500000FC : Word).toNat ∧ (0x500000FC : Word).toNat < Config.ex1.dmaBase.toNat + 0x100) ∧
    ((0x20010000 : Word).toNat % Size.word.bytes = 0 ∧ Config.ex1.inRam 0x20010000 Size.word.bytes = false ∧
      ¬(Config.ex1.regBase.toNat ≤ (0x20010000 : Word).toNat) ∧ ¬(Config.ex1.dmaBase.toNat ≤ (0x20010000 : Word).toNat)) := by
  decide

/-- `EX2` live with a frame event. -/
def framed2 : State :=
  { live Config.ex2 with regs := { (live Config.ex2).regs with frameF := true, lineF := true } }

theorem witness_FrameTransitionSwapsAndRestarts :
    (ScanLegal (pending true true 4) ∧ ChainLegal (pending true true 4) ∧ (pending true true 4).regs.run = true ∧
      (pending true true 4).regs.frameF = true ∧ (pending true true 4).regs.frameE = true) ∧
    (ScanLegal framed2 ∧ ChainLegal framed2 ∧ framed2.regs.run = true ∧ framed2.regs.frameF = true ∧
      framed2.regs.frameE = true) :=
  ⟨⟨by decide, ⟨by decide, by decide, by decide⟩, by decide, by decide, by decide⟩,
    by decide, ⟨by decide, by decide, by decide⟩, by decide, by decide, by decide⟩

theorem witness_LineTransitionPublishesTheNextRow :
    (pending true false 3).cfg.wf = true ∧ (pending true false 3).regs.run = true ∧
    (pending true false 3).regs.lineF = true ∧ (pending true false 3).regs.lineE = true ∧
    ¬((pending true false 3).regs.frameF = true ∧ (pending true false 3).regs.frameE = true) ∧
    (pending true false 4).regs.displayRow.toNat = Config.ex1.height := by decide

theorem witness_LinePointerMovesForward :
    ScanLegal (pending true false 2) ∧ dispEnabled (pending true false 2) = true ∧
    framePending (pending true false 2) = false ∧ isNext (agentTurn .disp (pending true false 2)) = true ∧
    (took .disp (pending true false 2)).regs.linePtr = 0x20001030 := by decide

theorem witness_FrameEventComesFirst :
    framed2.regs.run = true ∧ framed2.regs.frameF = true ∧ framed2.regs.frameE = true ∧ framed2.regs.lineF = true ∧
    framed2.regs.lineE = true ∧ isNext (agentTurn .disp framed2) = true := by decide

theorem witness_InitProgramsTheBlock :
    ((live Config.ex1).cfg.wf = true ∧ (live Config.ex1).regs.run = true) ∧
    ((fresh Config.ex1).regs.run = false ∧ resOk (fresh Config.ex1) = true ∧ (fresh Config.ex1).regs.liveBase ≠ 0) ∧
    ((fresh Config.ex2).cfg.wf = true ∧ resOk (fresh Config.ex2) = true ∧ (fresh Config.ex2).cfg.mode = .indexed) ∧
    (let s := { fresh Config.ex1 with env := { (fresh Config.ex1).env with draws := [false] } }
     s.cfg.wf = true ∧ s.regs.run = false ∧ resOk s = false) ∧
    (let s := fresh { Config.ex1 with ramBase := 0, fb0 := 0 }
     s.cfg.wf = true ∧ s.regs.run = false ∧ resOk s = true ∧ s.regs.liveBase = 0) := by
  decide

theorem witness_SetFramebufferPublishes :
    ((0x2000FFC0 : Word).toNat % 4 = 0 ∧ Config.ex1.ramBase.toNat ≤ (0x2000FFC0 : Word).toNat ∧
      (0x2000FFC0 : Word).toNat + Config.ex1.bufBytes ≤ Config.ex1.ramBase.toNat + Config.ex1.ramSize) ∧
    ¬((0x2000FFC4 : Word).toNat % 4 = 0 ∧ Config.ex1.ramBase.toNat ≤ (0x2000FFC4 : Word).toNat ∧
      (0x2000FFC4 : Word).toNat + Config.ex1.bufBytes ≤ Config.ex1.ramBase.toNat + Config.ex1.ramSize) := by decide

theorem witness_WaitVsyncWaits :
    (live Config.ex1).producers[(live Config.ex1).env.actor]? = some .zero ∧
    ({ live Config.ex1 with producers := [.zero, ⟨.waitVsync, [], 0⟩] } : State).producers[1]? = some ⟨.waitVsync, [], 0⟩ ∧
    (live Config.ex1).env.actor = 0 := by decide

theorem witness_SetPaletteWritesOneEntry :
    (live Config.ex1).cfg.mode = .direct ∧ (live Config.ex2).cfg.mode = .indexed ∧ (live Config.ex2).cfg.wf = true ∧
    255 < (256 : Word).toNat ∧ (255 : Word).toNat ≤ 255 ∧ MemoryCanonical (live Config.ex2) := by decide

theorem witness_SetBacklightFollowsTheCurve :
    255 < (256 : Word).toNat ∧ (255 : Word).toNat ≤ 255 ∧ (0 : Word).toNat = 0 ∧
    ((254 : Word).toNat ≠ 0 ∧ (254 : Word).toNat ≠ 255) := by decide

theorem witness_UpdateStarts :
    (live Config.ex1).producers[(live Config.ex1).env.actor]? = some .zero ∧
    updateArgsOk Config.ex1 0x2000FFC0 1 0 = true ∧ updateArgsOk Config.ex1 0x2000FFC0 2 0 = false ∧
    updateArgsOk Config.ex2 0x2000FFC0 1 0x2000FC00 = true ∧ updateArgsOk Config.ex2 0x2000FFC0 1 0x2000FC04 = false := by
  decide

theorem witness_PartialUpdateStarts :
    (live Config.ex1).producers[(live Config.ex1).env.actor]? = some .zero ∧ (2 : Word) ≠ 1 ∧
    sourceOk Config.ex1 0x2000FFC0 1 = true ∧ regionOk Config.ex1 7 0 1 4 = true ∧ regionOk Config.ex1 7 0 2 1 = false ∧
    regionOk Config.ex1 8 4 0 0 = true := by decide

theorem witness_BoundaryIsOneLineBehind :
    Config.ex1.bufferOk 0x20001000 = true ∧ Config.ex1.wf = true ∧
    ((0x20001000 : Word).toNat + Config.ex1.bufBytes ≤ (0x20001040 : Word).toNat) ∧
    ((0x2000103F : Word) ≠ 0 ∧ (0x20001000 : Word).toNat < (0x2000103F : Word).toNat ∧
      (0x2000103F : Word).toNat < (0x20001000 : Word).toNat + Config.ex1.bufBytes) ∧
    (1 ≤ 3 ∧ 3 < Config.ex1.bufRows ∧
      (0x20001030 : Word) = 0x20001000 + BitVec.ofNat 32 (Config.ex1.stride * 3)) := by decide

theorem witness_CompositeTakesTheTopmostNonzero :
    (fresh Config.ex1).cfg.wf = true ∧ 2 ≠ 0 ∧ sourceOk (fresh Config.ex1).cfg 0x20004000 2 = true ∧
    62 % (fresh Config.ex1).cfg.bpp = 0 ∧ 62 < (fresh Config.ex1).cfg.bufBytes := by decide

theorem witness_UpdateCopiesBehindTheScan :
    (live Config.ex1).cfg.wf = true ∧ CmdLegal Config.ex1 (.uRead 0x20004000 2 0x20001000 62) ∧
    CmdLegal Config.ex1 (.uCopy 0x20004000 2 0x20001000 62 64) ∧
    (busyWith (.uCopy 0x20004000 2 0x20001000 62 64) (live Config.ex1)).producers[0]? =
      some ⟨.uCopy 0x20004000 2 0x20001000 62 64, [], 0⟩ :=
  ⟨by decide, by simp only [CmdLegal]; decide, by simp only [CmdLegal]; decide, rfl⟩

theorem witness_IndexedUpdateWritesPaletteThenPixels :
    (live Config.ex2).cfg.wf = true ∧ CmdLegal Config.ex2 (.uiWait 0x20004000 1 0x20005000) ∧
    CmdLegal Config.ex2 (.uiPal 0x20004000 1 0x20005000 0 0) ∧
    CmdLegal Config.ex2 (.uiPal 0x20004000 1 0x20005000 0x20001000 255) ∧
    CmdLegal Config.ex2 (.uiCopy 0x20004000 1 0x20001000 63) ∧
    (busyWith (.uiCopy 0x20004000 1 0x20001000 63) (live Config.ex2)).producers[0]? =
      some ⟨.uiCopy 0x20004000 1 0x20001000 63, [], 0⟩ :=
  ⟨by decide, by simp only [CmdLegal]; decide, by simp only [CmdLegal]; decide, by simp only [CmdLegal]; decide,
    by simp only [CmdLegal]; decide, rfl⟩

theorem witness_PartialUpdateCopiesOnePixel :
    (live Config.ex1).cfg.wf = true ∧ CmdLegal Config.ex1 (.pCopy 0x20004000 0x20001000 7 0 1 4 3 7) ∧
    (busyWith (.pCopy 0x20004000 0x20001000 7 0 1 4 3 7) (live Config.ex1)).producers[0]? =
      some ⟨.pCopy 0x20004000 0x20001000 7 0 1 4 3 7, [], 0⟩ :=
  ⟨by decide, by simp only [CmdLegal]; decide, rfl⟩

end Sys2Proof.Tests
end

section
/-! The statements of `00_scope.md`: what `construct` refuses and what it only warns of, and whose turn a step is. -/

namespace Sys2Proof.Scope

open Sys2Proof Sys2Proof.Machine Sys2Proof.Safety Sys2Proof.Laws

/-! ## What `construct` answers -/

theorem construct_of_wf {c : Config} (h : c.wf = true) : construct c = .next (State.ofConfig c) := if_pos h

/-- `construct` refuses whatever breaks a consequence of its checks. -/
theorem construct_refused_of_wf_imp {c : Config} {P : Prop} (h : c.wf = true → P) (hP : ¬P) :
    construct c = .refused .badConfiguration := if_neg (mt h hP)

/-! ## The checks of `construct` in the words of the spec -/

/-- `WIDTH`, `HEIGHT` and `ROW_SHIFT` (`00_scope.md` R2). -/
theorem wf_geometry {c : Config} (h : c.wf = true) :
    4 ≤ c.width ∧ (c.mode = .direct → c.width % 2 = 0) ∧ (c.mode = .indexed → c.width % 4 = 0) ∧
      1 ≤ c.height ∧ (c.rowShift = true → c.height % 2 = 0) := by
  obtain ⟨hw, hh, -⟩ := wf_checks h
  simp only [Config.okWidth, Config.okHeight, Bool.and_eq_true, decide_eq_true_eq] at hw hh
  obtain ⟨hmin, hmult⟩ := hw
  obtain ⟨hone, heven⟩ := hh
  refine ⟨hmin, fun hm => ?_, fun hm => ?_, hone, fun hr => ?_⟩
  · simpa [hm] using hmult
  · simpa [hm] using hmult
  · simpa [hr] using heven

/-- The line counts (R3). -/
theorem wf_vertical {c : Config} (h : c.wf = true) :
    1 ≤ c.vpLines ∧ 1 ≤ c.vpLines + c.vbpLines ∧ 1 ≤ c.vfpLines := by
  obtain ⟨-, -, hv, -⟩ := wf_checks h
  simp only [Config.okVertical, Bool.and_eq_true, decide_eq_true_eq] at hv
  obtain ⟨⟨hvp, hback⟩, hvfp⟩ := hv
  exact ⟨hvp, hback, hvfp⟩

/-- The phase lengths and `PWM_TOP` (R4). -/
theorem wf_phases {c : Config} (h : c.wf = true) :
    (∀ h ∈ [c.hFront, c.hPulse, c.hBack, c.hDisplay], 3 ≤ h ∧ h ≤ 0xFFFF + 3) ∧ c.width ≤ c.hDisplay ∧
      940 ≤ c.pwmTop.toNat := by
  obtain ⟨-, -, -, hp, hb, -⟩ := wf_checks h
  simp only [Config.okHorizontal, Config.okPhaseLength, Config.okBacklight, Bool.and_eq_true,
    decide_eq_true_eq] at hp hb
  obtain ⟨⟨⟨⟨hfront, hpulse⟩, hback⟩, hdisplay⟩, hwidth⟩ := hp
  refine ⟨?_, hwidth, hb⟩
  simp only [List.forall_mem_cons, List.not_mem_nil, false_imp_iff, implies_true, and_true]
  exact ⟨hfront, hpulse, hback, hdisplay⟩

/-- `FB0` (`70_reset_and_hazards.md` R1001). -/
theorem wf_fb0 {c : Config} (h : c.wf = true) :
    c.fb0.toNat % 4 = 0 ∧ c.ramBase.toNat ≤ c.fb0.toNat ∧
      c.fb0.toNat + c.bufBytes ≤ c.ramBase.toNat + c.ramSize := by
  obtain ⟨-, -, -, -, -, -, -, -, -, -, hf, -, -⟩ := wf_checks h
  exact (bufferOk_iff c c.fb0).mp hf

/-- `PALETTE_BASE`, where there is a palette (R1001). -/
theorem wf_palette {c : Config} (hm : c.mode = .indexed) (h : c.wf = true) :
    c.paletteBase.toNat % 1024 = 0 ∧ c.ramBase.toNat ≤ c.paletteBase.toNat ∧
      c.paletteBase.toNat + 0x400 ≤ c.ramBase.toNat + c.ramSize := by
  obtain ⟨-, -, -, -, -, -, -, -, -, -, -, hp, -⟩ := wf_checks h
  simp only [Config.okPalette, hm, Bool.and_eq_true, decide_eq_true_eq] at hp
  exact ⟨hp.1, (inRam_iff c c.paletteBase 0x400).mp hp.2⟩

/-! ## An unsupported rotation -/

theorem constructStatus_unsupported {c : Config} (h0 : c.rotation ≠ 0) (h180 : c.rotation ≠ 180) :
    constructStatus c = Code.unsupported.mask := if_neg (not_or.mpr ⟨h0, h180⟩)

/-- Bit 3 of `CTRL` is `ROT180` (`10_state.md` R120). -/
theorem ctrlWord_rot180 (s : State) : (ctrlWord s).getLsbD 3 = s.cfg.rot180 := by
  simp only [ctrlWord, BitVec.getLsbD_append]
  simp

/-- The rotation shows in nothing but the configuration and the `UNSUPPORTED` bit. -/
theorem ofConfig_rotation_zero (c : Config) :
    { State.ofConfig c with
      cfg := { c with rotation := 0 }
      regs := { (State.ofConfig c).regs with status := 0 } } = State.ofConfig { c with rotation := 0 } := rfl

/-- Settles O3: each bound is a consequence of `Config.wf`, so a configuration that breaks it is refused; the
rotation is no part of `Config.wf` and shows only in `STATUS`. -/
theorem badGeometryIsRefused : Obligations.BadGeometryIsRefused := by
  intro c
  refine ⟨construct_refused_of_wf_imp wf_geometry, construct_refused_of_wf_imp wf_vertical,
    construct_refused_of_wf_imp wf_phases, construct_refused_of_wf_imp wf_fb0,
    fun hm => construct_refused_of_wf_imp (wf_palette hm), fun hwf h0 h180 => ?_⟩
  refine ⟨State.ofConfig c, construct_of_wf hwf, constructStatus_unsupported h0 h180, ?_,
    ofConfig_rotation_zero c⟩
  rw [ctrlWord_rot180]
  exact decide_eq_false h180

/-! ## Whose turn a step is -/

/-- A step of a machine that has not stopped. -/
theorem step_running {s : State} (h : isStopped s = false) : step s = agentTurn (chosen s) (takeTurn s) :=
  if_neg (by rw [h]; exact Bool.false_ne_true)

theorem agentTurn_enabled {a : Agent} {s : State} (h : enabled a s = true) : agentTurn a s = runAgent a s :=
  if_pos h

/-- The agents of the block other than the tick are those the premise looks at. -/
theorem mem_blockAgents_iff (a : Agent) : a ∈ blockAgents ↔ a ≠ .tick ∧ ∀ n, a ≠ .producer n := by
  cases a with
  | dma n => cases n <;> simp [blockAgents]
  | _ => simp [blockAgents]

/-- An agent that moves in place of the tick is one of the block's other agents. -/
theorem beforeTick_mem {s : State} {a : Agent} (h : beforeTick s = some a) : a ∈ blockAgents := by
  simp only [beforeTick] at h
  split at h
  · exact List.mem_of_find?_eq_some h
  · cases h

/-- A chosen tick is the schedule's own, with nothing moved before it. -/
theorem chosen_tick {s : State} (h : chosen s = .tick) : beforeTick s = none ∧ named s = .tick := by
  simp only [chosen] at h
  split at h
  next a hb =>
    subst h
    exact absurd rfl ((mem_blockAgents_iff _).mp (beforeTick_mem hb)).1
  next hb => exact ⟨hb, h⟩

/-- `70_reset_and_hazards.md` R1020: a tick is taken under the premise only when every other agent of the block is
idle. -/
theorem premise_tick_last {s : State} {a : Agent} (hp : s.env.policy = .premise) (hc : chosen s = .tick)
    (ha : a ∈ blockAgents) : enabled a s = false := by
  obtain ⟨hb, hn⟩ := chosen_tick hc
  have hfirst : firstEnabled s = none := by rwa [beforeTick, if_pos ⟨hp, hn⟩] at hb
  simpa using List.find?_eq_none.mp hfirst a ha

/-- Nothing moves in place of a listed agent other than a tick under the premise. -/
theorem beforeTick_listed {s : State} {a : Agent} {q : List Agent} (h : s.env.sched = a :: q)
    (ha : a ≠ .tick ∨ s.env.policy = .free) : beforeTick s = none := by
  refine if_neg fun ⟨hp, hn⟩ => ?_
  rcases ha with ha | hf
  · exact ha (by simpa only [named, h] using hn)
  · rw [hf] at hp
    cases hp

/-- The list's head moves and is used up. -/
theorem listed_turn {s : State} {a : Agent} {q : List Agent} (h : s.env.sched = a :: q)
    (ha : a ≠ .tick ∨ s.env.policy = .free) : chosen s = a ∧ (takeTurn s).env.sched = q := by
  have hb := beforeTick_listed h ha
  exact ⟨by simp only [chosen, hb, named, h], by simp [takeTurn, hb, h]⟩

/-! ## The timing word a tick runs -/

theorem runTiming_of_decode {w : Word} {i : Instr} (h : decode (.timing w) = .ok i) (s : State) :
    runTiming w s = exec i s := by
  simp only [runTiming, h]

/-- With no word in execution the tick pops the head of `TQ` (`41_timing_generator.md` R451). -/
theorem tickStep_fetch {s : State} {w : Word} {q : List Word} (hr : s.tgen.remain = 0) (hq : s.tgen.tq = w :: q) :
    tickStep s = runTiming w { s with tgen := { s.tgen with tq := q } } := by
  simp only [tickStep, hr, hq, if_true]

/-- A word in execution goes on. -/
theorem tickStep_resume {s : State} (hr : s.tgen.remain ≠ 0) : tickStep s = runTiming s.tgen.word s := if_neg hr

/-- A word is reserved exactly when a bit of 31:20 is set (`30_encoding.md` R303). -/
theorem timingWordOk_eq_false_iff (w : Word) : timingWordOk w = false ↔ 2 ^ 20 ≤ w.toNat := by
  simp only [timingWordOk, decide_eq_false_iff_not, ← BitVec.toNat_inj, BitVec.extractLsb'_toNat,
    Nat.shiftRight_eq_div_pow, BitVec.toNat_ofNat, Nat.zero_mod]
  have hlt := w.isLt
  omega

/-- The turn of an enabled TGEN. -/
theorem step_tick {s : State} (hs : isStopped s = false) (hc : chosen s = .tick) (he : s.tgen.en = true) :
    step s = tickStep (takeTurn s) := by
  rw [step_running hs, hc, agentTurn_enabled (by rw [enabled_takeTurn]; exact he)]
  rfl

/-- Settles O8: the step is the chosen agent's turn, and the tick's turn is `runTiming` of the fetched word. -/
theorem stepRunsTheTimingWord : Obligations.StepRunsTheTimingWord := by
  refine ⟨fun s hs hc he => ⟨?_, ?_, ?_⟩, ?_, ?_, ?_⟩
  case refine_1 =>
    intro w q i hr hq hi
    rw [step_tick hs hc he, tickStep_fetch (s := takeTurn s) hr hq]
    exact runTiming_of_decode hi _
  case refine_2 =>
    intro i hr hi
    rw [step_tick hs hc he, tickStep_resume (s := takeTurn s) hr]
    exact runTiming_of_decode hi _
  case refine_3 =>
    intro w q hr hq hw
    rw [step_tick hs hc he, tickStep_fetch (s := takeTurn s) hr hq]
    exact runTiming_reserved ((timingWordOk_eq_false_iff w).mpr hw)
  case refine_4 => exact fun s hp hc a ha hn => premise_tick_last hp hc ((mem_blockAgents_iff a).mpr ⟨ha, hn⟩)
  case refine_5 => exact fun s a q h ha => listed_turn h ha
  case refine_6 => exact fun s hs => step_running hs

end Sys2Proof.Scope
end

section
/-! A step as a sequence of elementary changes: the fields an agent may write, each with what limits the write. A
property that every elementary change keeps is kept by every step. -/

namespace Sys2Proof.StepChanges

open Sys2Proof Sys2Proof.Machine Sys2Proof.Safety Sys2Proof.Laws

/-- One elementary change of the state. Nothing else happens to a FIFO than a push that finds room and the loss of
its oldest words (`00_scope.md` R7), to `STATUS` than the raising of a code (`60_exceptions.md` R901), to
`LINEPTR`, `LIVEBASE`, `display_row` and the mailbox than the last four changes (`20_memory.md` R217); the
configuration stays. -/
inductive Change (s : State) : State → Prop
  | raise (c : Code) : Change s (raise c s)
  | env (e : Env) : Change s { s with env := e }
  | producers (ps : List Producer) : Change s { s with producers := ps }
  | mem (m : List Host.Cell) : Change s { s with mem := m }
  | dma (d : Channels) : Change s { s with dma := d }
  | tseq (q : Tseq) : Change s { s with tseq := q }
  /-- TGEN may pop or empty `TQ`. -/
  | tgen (g : Tgen) (htq : g.tq <:+ s.tgen.tq) : Change s { s with tgen := g }
  | pushTq (w : Word) (hfree : full s.cfg.tqDepth s.tgen.tq = false) :
    Change s { s with tgen := { s.tgen with tq := push s.tgen.tq w } }
  /-- The pump may pop or empty `PF`. -/
  | pump (p : Pump) (hpf : p.pf <:+ s.pump.pf) : Change s { s with pump := p }
  | pushPf (w : Word) (hfree : full s.cfg.pfDepth s.pump.pf = false) :
    Change s { s with pump := { s.pump with pf := push s.pump.pf w } }
  /-- `PLI` and `PLO` may be popped or emptied. -/
  | plu (p : Plu) (hpli : p.pli <:+ s.plu.pli) (hplo : p.plo <:+ s.plu.plo) : Change s { s with plu := p }
  | pushPli (w : Word) (hfree : full s.cfg.pliDepth s.plu.pli = false) :
    Change s { s with plu := { s.plu with pli := push s.plu.pli w } }
  | pushPlo (w : Word) (hfree : full s.cfg.ploDepth s.plu.plo = false) :
    Change s { s with plu := { s.plu with plo := push s.plu.plo w } }
  /-- The registers but `STATUS` and those of the scan. -/
  | flags (run lineF frameF startF lineE frameE vsWait : Bool) (blDuty : Word) :
    Change s { s with regs := { s.regs with run, lineF, frameF, startF, lineE, frameE, vsWait, blDuty } }
  /-- The mailbox of `SET_FRAMEBUFFER` (`46_host_commands.md` R820). -/
  | publish (b : Word) (hb : s.cfg.bufferOk b = true) :
    Change s { s with regs := { s.regs with pendAddr := b, pendValid := true } }
  /-- `INIT` puts the scan at the first row (R810). -/
  | rewind : Change s { s with regs := { s.regs with displayRow := 0, linePtr := s.regs.liveBase } }
  /-- The registers of a frame transition (`45_dispatcher.md` R710). -/
  | frame : Change s { s with regs := { s.regs.takeFrame with linePtr := s.regs.takeFrame.liveBase } }
  /-- A line transition (R720). -/
  | line : Change s (lineTransition s)

/-- Any number of elementary changes, one after the other. -/
abbrev Changes : State → State → Prop := Relation.ReflTransGen Change

theorem change_changes {s t : State} (h : Change s t) : Changes s t := .single h

/-! ## The shared operations -/

theorem raiseIf_changes (b : Bool) (c : Code) (s : State) : Changes s (raiseIf b c s) := by
  cases b
  case false => exact .refl
  case true => exact .single (.raise c)

theorem trigger_changes {n : ChanId} {v : Word} {s t : State} (h : trigger n v s = .ok t) : Changes s t := by
  obtain ⟨rfl, -⟩ := trigger_ok h
  exact (raiseIf_changes _ _ s).tail (.dma _)

theorem setCmd_changes (s : State) (c : Cmd) : Changes s (s.setCmd c) := by
  unfold State.setCmd
  split
  · exact .refl
  · exact .single (.producers _)

theorem producerStore_changes {s t : State} {a : Word} {z : Size} {v : Word}
    (h : producerStore s a z v = .ok t) : Changes s t := by
  obtain ⟨-, -, rfl⟩ := producerStore_ok h
  exact .single (.mem _)

theorem thenCmd_changes {s t : State} {r : Except Refusal State} {c : Cmd} (h : thenCmd r c = .ok t)
    (hr : ∀ u, r = .ok u → Changes s u) : Changes s t := by
  cases r with
  | error e => cases h
  | ok u =>
    cases h
    exact (hr u rfl).trans (setCmd_changes u c)

/-! ## The tick -/

/-- A fetched pixel leaves in `PF` what stood behind the word it may have popped. -/
theorem fetch_pf_suffix {c : Config} {p q : Pump} {px : BitVec 18} (h : p.fetch c = some (px, q)) :
    q.pf <:+ p.pf := by
  simp only [Pump.fetch, Pump.fetchDirect, Pump.fetchIndexed] at h
  have popped : ∀ w l, p.pf = w :: l → l <:+ p.pf := fun w l hl => hl ▸ List.suffix_cons w l
  split at h
  · split at h
    · cases h
      exact List.suffix_rfl
    · split at h
      · cases h
      · rename_i hl
        cases h
        exact popped _ _ hl
  · split at h
    · cases h
    · rename_i hl
      cases h
      exact popped _ _ hl

theorem pumpEmit_changes (s : State) : Changes s (pumpEmit s) := by
  unfold pumpEmit
  split
  · exact .single (.raise _)
  · rename_i hf
    have hpf := fetch_pf_suffix hf
    exact .single (.pump _ hpf)

theorem pumpIdleOutput_changes (s : State) : Changes s (pumpIdleOutput s) :=
  .single (.pump _ List.suffix_rfl)

theorem pumpStart_changes (s : State) : Changes s (pumpStart s) :=
  (change_changes (.flags _ _ _ false _ _ _ _)).tail (.pump _ List.suffix_rfl)

theorem pumpCycle_changes (b : Bool) (s : State) : Changes s (pumpCycle b s) := by
  rcases pumpCycle_cases b s with ⟨h, -⟩ | ⟨h, -⟩ | ⟨h, -⟩
  case inl => exact h ▸ pumpIdleOutput_changes s
  case inr.inl =>
    exact h ▸ ((pumpIdleOutput_changes s).trans (pumpStart_changes _)).trans (pumpEmit_changes _)
  case inr.inr => exact h ▸ (pumpIdleOutput_changes s).trans (pumpEmit_changes _)

theorem deliver_changes (t : Trig) (s : State) : Changes s (deliver t s) := by
  cases t with
  | none => exact .refl
  | lineReady => exact (raiseIf_changes _ _ s).tail (.flags _ _ _ true _ _ _ _)
  | nextLine => exact (raiseIf_changes _ _ s).tail (.flags _ true _ _ _ _ _ _)
  | frameReady => exact (raiseIf_changes _ _ s).tail (.flags _ _ true _ _ _ _ _)

theorem emitTrace_changes (s : State) : Changes s (emitTrace s) := .single (.env _)

@[simp] theorem cycle_loadWord_tq (g : Tgen) (w : Word) (n : BitVec 16) (hs vs : Bool) :
    ((g.loadWord w n).cycle hs vs).tq = g.tq := by
  simp only [Tgen.cycle, Tgen.loadWord]
  split <;> rfl

theorem wordTick_changes (t : Trig) (n : BitVec 16) (hs vs : Bool) (s : State) :
    Changes s (wordTick t n hs vs s) := by
  have drive : Changes s { s with tgen := (s.tgen.loadWord (timingWord t vs hs n) n).cycle hs vs } :=
    .single (.tgen _ (by simp))
  refine (drive.trans (pumpCycle_changes s.regs.startF _)).trans (.trans ?_ (emitTrace_changes _))
  split
  · exact deliver_changes t _
  · exact .refl

theorem stallTick_changes (s : State) : Changes s (stallTick s) :=
  ((change_changes (.raise _)).trans (pumpCycle_changes s.regs.startF _)).trans (emitTrace_changes _)

theorem tickStep_changes {s t : State} (h : tickStep s = .next t) : Changes s t := by
  rcases tickStep_next h with ⟨-, -, rfl⟩ | ⟨w, q, -, hq, -, rfl⟩ | ⟨-, -, rfl⟩
  · exact stallTick_changes s
  · exact .head (.tgen _ (hq ▸ List.suffix_cons w q)) (wordTick_changes ..)
  · exact wordTick_changes ..

/-! ## The sequencer, TGEN's start and the palette -/

theorem tseqStep_changes {s : State} (h : tseqEnabled s = true) : Changes s (tseqStep s) := by
  simp only [tseqEnabled, Bool.and_eq_true, Bool.not_eq_true'] at h
  obtain ⟨-, hfree⟩ := h
  exact (change_changes (.pushTq _ hfree)).tail (.tseq _)

theorem tgenStartStep_changes (s : State) : Changes s (tgenStartStep s) := .single (.tgen _ List.suffix_rfl)

theorem pluLoad_pli_suffix (p : Plu) : p.load.pli <:+ p.pli := by
  unfold Plu.load
  split
  · exact List.suffix_rfl
  · rename_i w q hq
    exact hq ▸ List.suffix_cons w q

theorem pluLoad_plo (p : Plu) : p.load.plo = p.plo := by
  unfold Plu.load
  split <;> rfl

/-- A lookup waits for room in `PLO` (`43_palette_lookup.md` R553). -/
theorem lookup_has_room {s : State} (h : pluEnabled s = true) (hn : s.plu.n ≠ 0) :
    full s.cfg.ploDepth s.plu.plo = false := by
  simp only [pluEnabled, pluLoadEnabled, pluLookupEnabled, Bool.or_eq_true, Bool.and_eq_true, decide_eq_true_eq,
    Bool.not_eq_true'] at h
  rcases h with ⟨⟨-, hzero⟩, -⟩ | ⟨-, hfree⟩
  · exact absurd hzero hn
  · exact hfree

theorem pluStep_changes {s : State} (h : pluEnabled s = true) : Changes s (pluStep s) := by
  by_cases hn : s.plu.n = 0
  · simp only [pluStep, if_pos hn]
    exact .single (.plu _ (pluLoad_pli_suffix _) (by rw [pluLoad_plo]))
  · simp only [pluStep, if_neg hn]
    exact (change_changes (.pushPlo _ (lookup_has_room h hn))).tail (.plu _ List.suffix_rfl List.suffix_rfl)

/-! ## The DMA channels -/

theorem dmaLoad_changes (s : State) (a : Word) : Changes s (dmaLoad s a).2 := by
  have pop : Changes s (popPlo s).2 := by
    unfold popPlo
    split
    · exact .single (.raise _)
    · rename_i v q hq
      exact .single (.plu _ List.suffix_rfl (hq ▸ List.suffix_cons v q))
  have bad : Changes s (badLoad s).2 := .single (.raise _)
  unfold dmaLoad
  split
  · exact bad
  · split
    · exact .refl
    · split
      · exact pop
      · exact .refl
    · exact .refl
    · exact bad

theorem pushPf_changes (s : State) (v : Word) : Changes s (pushPf s v) := by
  unfold pushPf
  split
  · exact .single (.raise _)
  · rename_i hfree
    exact .single (.pushPf v (Bool.eq_false_of_not_eq_true hfree))

theorem pushPli_changes (s : State) (v : Word) : Changes s (pushPli s v) := by
  unfold pushPli
  split
  · exact .single (.raise _)
  · rename_i hfree
    exact .single (.pushPli v (Bool.eq_false_of_not_eq_true hfree))

theorem portStore_changes (s : State) (off : Nat) (v : Word) : Changes s (portStore s off v) := by
  unfold portStore
  split_ifs
  · exact pushPf_changes s v
  · exact pushPli_changes s v
  · exact .refl
  · exact .single (.raise _)

theorem dmaStore_changes {s t : State} {a v : Word} (h : dmaStore s a v = .ok t) : Changes s t := by
  rcases dmaStore_ok h with ⟨-, rfl⟩ | ⟨off, -, rfl⟩ | ⟨off, -, -, -, ht⟩ | rfl
  · exact .single (.mem _)
  · exact portStore_changes s off v
  · exact trigger_changes ht
  · exact .single (.raise _)

theorem dmaComplete_changes {n : ChanId} {s t : State} (h : dmaComplete n s = .ok t) : Changes s t := by
  simp only [dmaComplete] at h
  split at h
  · cases h
  · split at h
    · cases h
      exact .single (.dma _)
    · exact .head (.dma _) (trigger_changes h)

theorem dmaCount_changes {n : ChanId} {s t : State} (h : dmaCount n s = .ok t) : Changes s t := by
  simp only [dmaCount] at h
  split at h
  · exact .head (.dma _) (dmaComplete_changes h)
  · cases h
    exact .single (.dma _)

theorem dmaStep_changes {n : ChanId} {s t : State} (h : dmaStep n s = .ok t) : Changes s t := by
  simp only [dmaStep] at h
  split at h
  · obtain ⟨u, hstore, hcount⟩ := dmaTransfer_ok h
    exact ((dmaLoad_changes s _).trans (dmaStore_changes hstore)).trans (dmaCount_changes hcount)
  · cases h

theorem startChannels_changes {s t : State} (h : startChannels s = .ok t) : Changes s t := by
  simp only [startChannels] at h
  split at h
  · cases h
  · rename_i hA
    have startA := trigger_changes hA
    split at h
    · cases h
      exact startA
    · exact startA.trans (trigger_changes h)

/-! ## The dispatcher -/

theorem frameQuiesce_changes (s : State) : Changes s (frameQuiesce s) := by
  have aborts : Changes s (abort .b (abort .a s)) := .single (.dma _)
  have halt := aborts.tail (.pump { s.pump.forceEntry with en := true } (List.nil_suffix))
  unfold frameQuiesce
  split
  · exact halt
  · exact (halt.tail (.dma _)).tail (.plu _ List.nil_suffix List.nil_suffix)

/-- The quiesce of a frame transition neither reads nor writes the registers. -/
theorem frameQuiesce_setRegs (s : State) (r : Regs) :
    frameQuiesce { s with regs := r } = { frameQuiesce s with regs := r } := by
  unfold frameQuiesce
  simp only []
  split <;> rfl

/-- The transition's writes of the scan registers may all be put first: they do not meet the quiesce. -/
theorem frameTransition_changes {s t : State} (h : frameTransition s = .ok t) : Changes s t := by
  simp only [frameTransition, frameQuiesce_regs] at h
  split at h
  · cases h
  · rename_i hstart
    cases h
    rw [frameQuiesce_setRegs] at hstart
    have quiesce := frameQuiesce_changes
      { s with regs := { s.regs.takeFrame with linePtr := s.regs.takeFrame.liveBase } }
    rw [frameQuiesce_setRegs] at quiesce
    exact (quiesce.head .frame).trans ((startChannels_changes hstart).tail (.flags _ _ _ _ _ _ false _))

theorem dispStep_changes {s t : State} (h : dispStep s = .ok t) : Changes s t := by
  simp only [dispStep] at h
  split at h
  · exact frameTransition_changes h
  · cases h
    exact .single .line

/-! ## The host commands -/

/-- `INIT` and `TEARDOWN` write every unit and empty `TQ` and `PF`, and the PLU's FIFOs where there is a PLU
(`46_host_commands.md` R810, R815). -/
theorem units_changes {s : State} (d : Channels) (q : Tseq) {g : Tgen} {p : Pump} {u : Plu} (hg : g.tq = [])
    (hp : p.pf = []) (hu : u.pli = s.plu.pli ∧ u.plo = s.plu.plo ∨ u.pli = [] ∧ u.plo = []) :
    Changes s { s with dma := d, tseq := q, tgen := g, pump := p, plu := u } := by
  have blockUnits : Changes s { s with dma := d, tseq := q, tgen := g, pump := p } :=
    (((change_changes (.dma d)).tail (.tseq q)).tail (.tgen g (hg ▸ List.nil_suffix))).tail
      (.pump p (hp ▸ List.nil_suffix))
  rcases hu with ⟨hpli, hplo⟩ | ⟨hpli, hplo⟩
  · exact blockUnits.tail (.plu u (hpli ▸ List.suffix_rfl) (hplo ▸ List.suffix_rfl))
  · exact blockUnits.tail (.plu u (hpli ▸ List.nil_suffix) (hplo ▸ List.nil_suffix))

theorem initBlock_changes {s t : State} (h : initBlock s = .ok t) : Changes s t := by
  simp only [initBlock] at h
  split at h
  · cases h
  · rename_i hstart
    cases h
    refine .trans ?_ (((startChannels_changes hstart).tail (.flags true _ _ _ true true _ _)).tail (.tseq _))
    have regs : Changes s { s with regs := { s.regs with
        lineF := false, frameF := false, startF := false, displayRow := 0, linePtr := s.regs.liveBase } } :=
      (change_changes .rewind).tail (.flags _ false false false _ _ _ _)
    refine regs.trans (units_changes _ _ rfl rfl ?_)
    split
    · exact .inl ⟨rfl, rfl⟩
    · exact .inr ⟨rfl, rfl⟩

theorem execInit_changes {s t : State} (h : execInit s = .next t) : Changes s t := by
  have draw : Changes s (drawn s) := .single (.env _)
  simp only [execInit] at h
  split at h
  · cases h
    exact .single (.raise _)
  · split at h
    · cases h
    · rename_i hinit
      cases h
      split
      · exact draw.trans (initBlock_changes hinit)
      · exact draw.tail (.raise .initFail)

theorem execTeardown_changes {s t : State} (h : execTeardown s = .next t) : Changes s t := by
  cases h
  have regs : Changes s { s with regs := { s.regs with lineE := false, frameE := false, run := false } } :=
    .single (.flags false _ _ _ false false _ _)
  refine regs.trans (units_changes _ _ rfl rfl ?_)
  split
  · exact .inl ⟨rfl, rfl⟩
  · exact .inr ⟨rfl, rfl⟩

theorem execSetFramebuffer_changes {b : Word} {s t : State} (h : execSetFramebuffer b s = .next t) :
    Changes s t := by
  simp only [execSetFramebuffer] at h
  split at h
  · rename_i hb
    cases h
    exact .single (.publish b hb)
  · cases h
    exact .single (.raise _)

/-- The two commands that wait for the frame set `VSWAIT` first. -/
theorem setWait_changes (s : State) (c : Cmd) :
    Changes s (State.setCmd { s with regs := { s.regs with vsWait := true } } c) :=
  .head (.flags _ _ _ _ _ _ true _) (setCmd_changes _ c)

theorem execWaitVsync_changes {s t : State} (h : execWaitVsync s = .next t) : Changes s t := by
  cases h
  exact setWait_changes s _

theorem execSetPalette_changes {i c : Word} {s t : State} (h : execSetPalette i c s = .next t) :
    Changes s t := by
  simp only [execSetPalette] at h
  split_ifs at h
  · cases h
    exact .single (.raise _)
  · cases h
    exact .single (.raise _)
  · exact producerStore_changes (outcomeOf_next h)

theorem execSetBacklight_changes {b : Word} {s t : State} (h : execSetBacklight b s = .next t) :
    Changes s t := by
  simp only [execSetBacklight] at h
  split at h
  · cases h
    exact .single (.raise _)
  · cases h
    exact .single (.flags _ _ _ _ _ _ _ (backlightDuty s.cfg b.toNat))

theorem execUpdate_changes {src layers pal : Word} {s t : State} (h : execUpdate src layers pal s = .next t) :
    Changes s t := by
  simp only [execUpdate] at h
  split at h
  · cases h
    exact .single (.raise _)
  · split at h
    · cases h
      exact setCmd_changes s _
    · cases h
      exact setWait_changes s _

theorem execPartialUpdate_changes {src layers : Word} {x y w n : BitVec 16} {s t : State}
    (h : execPartialUpdate src layers x y w n s = .next t) : Changes s t := by
  simp only [execPartialUpdate] at h
  split_ifs at h
  iterate 3
    · cases h
      exact .single (.raise _)
  · cases h
    exact .refl
  · cases h
    exact setCmd_changes s _

theorem exec_changes {i : Instr} {s t : State} (h : exec i s = .next t) : Changes s t := by
  cases i with
  | twNone count hs vs => cases h; exact wordTick_changes ..
  | twLineReady count hs vs => cases h; exact wordTick_changes ..
  | twNextLine count hs vs => cases h; exact wordTick_changes ..
  | twFrameReady count hs vs => cases h; exact wordTick_changes ..
  | init => exact execInit_changes h
  | teardown => exact execTeardown_changes h
  | setFramebuffer base => exact execSetFramebuffer_changes h
  | waitVsync => exact execWaitVsync_changes h
  | setPalette index colour => exact execSetPalette_changes h
  | setBacklight brightness => exact execSetBacklight_changes h
  | update src layers pal => exact execUpdate_changes h
  | partialUpdate src layers x y w h' => exact execPartialUpdate_changes h

/-! ## The producers -/

theorem copyPixel_changes {s t : State} {src dest : Word} {layers o : Nat}
    (h : copyPixel s src layers dest o = .ok t) : Changes s t := by
  obtain ⟨v, -, rfl⟩ := copyPixel_ok h
  exact .single (.mem _)

theorem cmdStep_changes {c : Cmd} {s t : State} (h : cmdStep c s = .ok t) : Changes s t := by
  cases c with
  | idle => cases h; exact .refl
  | waitVsync => cases h; exact setCmd_changes s _
  | uRead src layers dest cur =>
    simp only [cmdStep, stepURead] at h
    split at h <;> (cases h; exact setCmd_changes s _)
  | uCopy src layers dest cur re => exact thenCmd_changes h fun u => copyPixel_changes
  | uiWait src layers pal => cases h; exact setCmd_changes s _
  | uiPal src layers pal dest i =>
    simp only [cmdStep, stepUiPal] at h
    split at h
    · cases h
    · exact thenCmd_changes h fun u => producerStore_changes
  | uiCopy src layers dest o => exact thenCmd_changes h fun u => copyPixel_changes
  | pCopy src dest x y w h' yy xx =>
    simp only [cmdStep, stepPCopy] at h
    split at h
    · cases h
    · exact thenCmd_changes h fun u => producerStore_changes

theorem issue_changes {r : Request} {p : Producer} {s t : State} (h : issue r p s = .next t) :
    Changes s t := by
  cases r with
  | command c =>
    simp only [issue] at h
    split at h
    · exact exec_changes h
    · cases h
      exact .single (.raise .unsupported)
  | load a z =>
    simp only [issue] at h
    split at h
    · cases h
    · cases h
      exact .single (.producers _)
  | store a z v => exact producerStore_changes (outcomeOf_next h)

theorem producerStep_changes {n : Nat} {s t : State} (h : producerStep n s = .next t) : Changes s t := by
  have act : Changes s (s.withActor n) := .single (.env _)
  rcases producerStep_next h with rfl | ⟨p, r, q, -, -, -, hissue⟩ | ⟨p, -, -, hcmd⟩
  · exact .refl
  · exact (act.tail (.producers _)).trans (issue_changes hissue)
  · exact act.trans (cmdStep_changes hcmd)

/-! ## The step -/

theorem runAgent_changes {a : Agent} {s t : State} (he : enabled a s = true) (h : runAgent a s = .next t) :
    Changes s t := by
  cases a with
  | tseq => cases h; exact tseqStep_changes he
  | tgenStart => cases h; exact tgenStartStep_changes s
  | tick => exact tickStep_changes h
  | plu => cases h; exact pluStep_changes he
  | dma n => exact dmaStep_changes (outcomeOf_next h)
  | disp => exact dispStep_changes (outcomeOf_next h)
  | producer n => exact producerStep_changes h

/-- A step is a sequence of elementary changes. -/
theorem step_changes {s t : State} (h : step s = .next t) : Changes s t := by
  obtain ⟨-, hturn⟩ := step_next h
  have turn : Changes s (takeTurn s) := .single (.env _)
  rcases agentTurn_next hturn with ⟨-, rfl⟩ | ⟨he, hrun⟩
  · exact turn
  · exact turn.trans (runAgent_changes he hrun)

theorem changes_keep {P : State → Prop} (hP : ∀ s t, Change s t → P s → P t) {s t : State}
    (h : Changes s t) (hs : P s) : P t := by
  induction h with
  | refl => exact hs
  | tail _ hchange ih => exact hP _ _ hchange ih

/-- A property that every elementary change keeps is kept by every step. -/
theorem step_keeps {P : State → Prop} (hP : ∀ s t, Change s t → P s → P t) {s t : State}
    (h : step s = .next t) (hs : P s) : P t := changes_keep hP (step_changes h) hs

end Sys2Proof.StepChanges
end

section
/-! The statements of `10_state.md`: the FIFOs within their depths, the scan registers, the sticky `STATUS`, what
the register and DMA windows return, and the state `construct` leaves. -/

namespace Sys2Proof.StateRules

open Sys2Proof Sys2Proof.Machine Sys2Proof.Safety Sys2Proof.Laws Sys2Proof.StepChanges

/-! ## The FIFOs -/

/-- A push onto a FIFO that is within its depth and not full leaves it so. -/
theorem push_length_le {d : Nat} {q : List Word} (w : Word) (hq : q.length ≤ d) (hfree : full d q = false) :
    (push q w).length ≤ d := by
  have hne : q.length ≠ d := by simpa [full] using hfree
  simp only [push, List.length_append, List.length_singleton]
  omega

theorem change_keeps_queuesBounded (s t : State) (h : Change s t) (hs : QueuesBounded s) : QueuesBounded t := by
  obtain ⟨htq, hpf, hpli, hplo⟩ := hs
  cases h with
  | tgen g hsuf => exact ⟨hsuf.length_le.trans htq, hpf, hpli, hplo⟩
  | pushTq w hfree => exact ⟨push_length_le w htq hfree, hpf, hpli, hplo⟩
  | pump p hsuf => exact ⟨htq, hsuf.length_le.trans hpf, hpli, hplo⟩
  | pushPf w hfree => exact ⟨htq, push_length_le w hpf hfree, hpli, hplo⟩
  | plu p hpli' hplo' => exact ⟨htq, hpf, hpli'.length_le.trans hpli, hplo'.length_le.trans hplo⟩
  | pushPli w hfree => exact ⟨htq, hpf, push_length_le w hpli hfree, hplo⟩
  | pushPlo w hfree => exact ⟨htq, hpf, hpli, push_length_le w hplo hfree⟩
  | _ => exact ⟨htq, hpf, hpli, hplo⟩

/-- Settles O50: a word is pushed only where there is room for it. -/
theorem stepKeepsQueuesBounded : Obligations.StepKeepsQueuesBounded :=
  fun _ _ hs h => step_keeps change_keeps_queuesBounded h hs

/-! ## The scan registers -/

/-- The published row of `display_row = 0` is the buffer itself. -/
theorem rowPointer_zero {c : Config} (hc : c.wf = true) (live : Word) : rowPointer c live 0 = live := by
  obtain ⟨-, -, hheight, -⟩ := wf_sizes hc
  simp only [rowPointer, if_neg (show ¬0 = c.height by omega), offset, Nat.zero_shiftRight, Nat.mul_zero]
  simp

theorem nextDisplayRow_le (c : Config) (r : BitVec 16) : (nextDisplayRow c r).toNat ≤ c.height := by
  simp only [nextDisplayRow, BitVec.toNat_ofNat]
  exact (Nat.mod_le _ _).trans (min_le_right _ _)

theorem takeFrame_liveBase_ok {s : State} (hs : ScanLegal s) :
    s.cfg.bufferOk s.regs.takeFrame.liveBase = true := by
  obtain ⟨-, -, -, hlive, hpend⟩ := hs
  simp only [Regs.takeFrame]
  split
  · rename_i hv
    exact hpend hv
  · exact hlive

theorem change_keeps_scanLegal (s t : State) (h : Change s t) (hs : ScanLegal s) : ScanLegal t := by
  have hframe := takeFrame_liveBase_ok hs
  obtain ⟨hc, hrow, hptr, hlive, hpend⟩ := hs
  cases h with
  | publish b hb => exact ⟨hc, hrow, hptr, hlive, fun _ => hb⟩
  | rewind => exact ⟨hc, Nat.zero_le _, .inr (rowPointer_zero hc _).symm, hlive, hpend⟩
  | frame =>
    exact ⟨hc, Nat.zero_le _, .inr (rowPointer_zero hc _).symm, hframe, fun hv => absurd hv Bool.false_ne_true⟩
  | line => exact ⟨hc, nextDisplayRow_le _ _, .inr rfl, hlive, hpend⟩
  | _ => exact ⟨hc, hrow, hptr, hlive, hpend⟩

/-- Settles O52: only four changes meet the scan registers, and each publishes a checked buffer or the row it goes
to. -/
theorem stepKeepsScanLegal : Obligations.StepKeepsScanLegal :=
  fun _ _ hs h => step_keeps change_keeps_scanLegal h hs

/-! ## `STATUS` and the configuration -/

/-- `t` has every `STATUS` bit and the configuration of `s`. -/
def StatusFrom (s t : State) : Prop := s.regs.status &&& t.regs.status = s.regs.status ∧ t.cfg = s.cfg

/-- Raising a code keeps the bits that were set. -/
theorem and_or_eq_left {a b : BitVec 11} (m : BitVec 11) (h : a &&& b = a) : a &&& (b ||| m) = a := by
  rw [BitVec.and_or_distrib_left, h]
  ext i hi
  simp +contextual

theorem change_keeps_statusFrom (s u t : State) (h : Change u t) (hs : StatusFrom s u) : StatusFrom s t := by
  obtain ⟨hstatus, hcfg⟩ := hs
  cases h with
  | raise c => exact ⟨and_or_eq_left c.mask hstatus, hcfg⟩
  | _ => exact ⟨hstatus, hcfg⟩

/-- Settles O58: starting from `s` itself, no change loses a bit that is set. -/
theorem statusIsStickyAndConfigFixed : Obligations.StatusIsStickyAndConfigFixed :=
  fun s _ h => step_keeps (change_keeps_statusFrom s) h ⟨BitVec.and_self, rfl⟩

/-! ## The registers as words -/

/-- Fields side by side add up, each at its position. -/
theorem toNat_append_add {m n : Nat} (x : BitVec m) (y : BitVec n) :
    (x ++ y).toNat = x.toNat * 2 ^ n + y.toNat := by
  rw [BitVec.toNat_append, ← Nat.shiftLeft_add_eq_or_of_lt y.isLt, Nat.shiftLeft_eq]

theorem eq_ofNat_of_toNat {w : Word} {n : Nat} (h : w.toNat = n) : w = BitVec.ofNat 32 n := by
  rw [← h, BitVec.ofNat_toNat, BitVec.setWidth_eq]

theorem ctrlWord_toNat (s : State) :
    (ctrlWord s).toNat = s.regs.run.toNat + 2 * (decide (s.cfg.mode = .indexed)).toNat +
      4 * s.cfg.rowShift.toNat + 8 * (decide (s.cfg.rotation = 180)).toNat := by
  simp only [ctrlWord, Config.rot180, toNat_append_add, BitVec.toNat_ofBool, BitVec.toNat_ofNat, Nat.zero_mod]
  omega

theorem statusWord_toNat (s : State) : (statusWord s).toNat = s.regs.status.toNat :=
  BitVec.toNat_setWidth_of_le (by omega)

theorem intfWord_toNat (s : State) :
    (intfWord s).toNat = s.regs.lineF.toNat + 2 * s.regs.frameF.toNat + 4 * s.regs.startF.toNat := by
  simp only [intfWord, toNat_append_add, BitVec.toNat_ofBool, BitVec.toNat_ofNat, Nat.zero_mod]
  omega

theorem inteWord_toNat (s : State) :
    (inteWord s).toNat = s.regs.lineE.toNat + 2 * s.regs.frameE.toNat := by
  simp only [inteWord, toNat_append_add, BitVec.toNat_ofBool, BitVec.toNat_ofNat, Nat.zero_mod]
  omega

theorem pendvWord_toNat (s : State) : (pendvWord s).toNat = s.regs.pendValid.toNat := by
  simp only [pendvWord, toNat_append_add, BitVec.toNat_ofBool, BitVec.toNat_ofNat, Nat.zero_mod]
  omega

theorem tposWord_toNat (s : State) :
    (tposWord s).toNat = s.tseq.row.toNat + 2 ^ 16 * s.tseq.phase.toNat := by
  simp only [tposWord, toNat_append_add, BitVec.toNat_ofNat, Nat.zero_mod]
  omega

theorem drowWord_toNat (s : State) : (drowWord s).toNat = s.regs.displayRow.toNat := by
  simp only [drowWord, toNat_append_add, BitVec.toNat_ofNat, Nat.zero_mod]
  omega

theorem vswaitWord_toNat (s : State) : (vswaitWord s).toNat = s.regs.vsWait.toNat := by
  simp only [vswaitWord, toNat_append_add, BitVec.toNat_ofBool, BitVec.toNat_ofNat, Nat.zero_mod]
  omega

theorem ctrl_toWord_toNat (x : Ctrl) :
    x.toWord.toNat = x.en.toNat + 2 * x.busy.toNat + 4 * x.incrRead.toNat + 8 * x.incrWrite.toNat +
      16 * x.bswap.toNat + 32 * x.dreq.toNat + 256 * x.chainTo.toNat := by
  simp only [Ctrl.toWord, toNat_append_add, BitVec.toNat_ofBool, BitVec.toNat_ofNat, Nat.zero_mod]
  omega

/-! ## Loads from the windows -/

/-- A word-aligned offset into a 256-byte window does not wrap and is an aligned address (`20_memory.md` R202,
R204). -/
theorem window_address {b : Word} {k : Nat} (hb : b.toNat % 256 = 0) (h4 : k % 4 = 0) (hk : k < 0x100) :
    (b + BitVec.ofNat 32 k).toNat = b.toNat + k ∧ aligned (b + BitVec.ofNat 32 k) .word = true := by
  have hlt := b.isLt
  have haddr : (b + BitVec.ofNat 32 k).toNat = b.toNat + k := offset_toNat (by omega)
  refine ⟨haddr, (aligned_iff _ _).2 ?_⟩
  simp only [haddr, Size.bytes]
  omega

/-- A 32-bit load at an offset of the register window returns the register there (R205). -/
theorem producerLoad_regWin {s : State} {k : Nat} (hc : s.cfg.wf = true) (h4 : k % 4 = 0) (hk : k < 0x100) :
    producerLoad s (s.cfg.regBase + BitVec.ofNat 32 k) .word = .ok (regRead s k) := by
  obtain ⟨-, hbase, -⟩ := wf_map hc
  obtain ⟨haddr, halign⟩ := window_address hbase h4 hk
  have hregion : region s.cfg (s.cfg.regBase + BitVec.ofNat 32 k) 4 = .regWin k := by
    rw [region_regWin hc (by decide) (by omega) (by omega), haddr, Nat.add_sub_cancel_left]
  simp [producerLoad, halign, Size.bytes, hregion]

/-- A 32-bit load at an offset of the DMA window returns the channel register there (R205). -/
theorem producerLoad_dmaWin {s : State} {k : Nat} (hc : s.cfg.wf = true) (h4 : k % 4 = 0) (hk : k < 0x100) :
    producerLoad s (s.cfg.dmaBase + BitVec.ofNat 32 k) .word = .ok (dmaRegRead s k) := by
  obtain ⟨-, -, hbase, -⟩ := wf_map hc
  obtain ⟨haddr, halign⟩ := window_address hbase h4 hk
  have hregion : region s.cfg (s.cfg.dmaBase + BitVec.ofNat 32 k) 4 = .dmaWin k := by
    rw [region_dmaWin hc (by decide) (by omega) (by omega), haddr, Nat.add_sub_cancel_left]
  simp [producerLoad, halign, Size.bytes, hregion]

/-- Past the last register the window reads 0. -/
theorem regRead_reserved (s : State) {k : Nat} (hk : 0x30 ≤ k) : regRead s k = 0 := by
  simp (disch := omega) only [regRead, offLinePtr, if_neg]

theorem chanAt_block (n : ChanId) {k : Nat} (hk : k < 0x40) : chanAt (0x40 * chanIndex n + k) = n := by
  cases n <;> simp only [chanIndex] <;> simp (disch := omega) only [chanAt, if_pos, if_neg]

/-- `10_state.md` R150: the registers at the offsets of a channel's block. -/
theorem dmaRegRead_block (s : State) (n : ChanId) {k : Nat} (hk : k < 0x40) :
    dmaRegRead s (0x40 * chanIndex n + k) =
      if k = 0x00 then (s.chan n).readAddr
      else if k = 0x04 then (s.chan n).writeAddr
      else if k = 0x08 then (s.chan n).transCount
      else if k = 0x0C then (s.chan n).ctrl.toWord
      else if k = 0x10 then (s.chan n).readAddr
      else if k = 0x14 then (s.chan n).remain
      else 0 := by
  have hmod : (0x40 * chanIndex n + k) % 0x40 = k := by omega
  simp only [dmaRegRead, chanAt_block n hk, hmod, offTrig]

/-- What a producer's loads of a channel's block return (`10_state.md` R150, R151). -/
theorem dmaBlock_loads {s : State} (hc : s.cfg.wf = true) (n : ChanId) :
    let at_ (k : Nat) := producerLoad s (s.cfg.dmaBase + BitVec.ofNat 32 (0x40 * chanIndex n + k)) .word
    at_ 0x00 = .ok (s.chan n).readAddr ∧ at_ 0x04 = .ok (s.chan n).writeAddr ∧
    at_ 0x08 = .ok (s.chan n).transCount ∧
    at_ 0x0C = .ok (BitVec.ofNat 32 ((s.chan n).ctrl.en.toNat + 2 * (s.chan n).ctrl.busy.toNat +
      4 * (s.chan n).ctrl.incrRead.toNat + 8 * (s.chan n).ctrl.incrWrite.toNat +
      16 * (s.chan n).ctrl.bswap.toNat + 32 * (s.chan n).ctrl.dreq.toNat +
      256 * (s.chan n).ctrl.chainTo.toNat)) ∧
    at_ 0x10 = .ok (s.chan n).readAddr ∧ at_ 0x14 = .ok (s.chan n).remain ∧
    (∀ k, k % 4 = 0 → 0x18 ≤ k → k ≤ 0x3C → at_ k = .ok 0) := by
  have reg : ∀ k v, k % 4 = 0 → k < 0x40 → dmaRegRead s (0x40 * chanIndex n + k) = v →
      producerLoad s (s.cfg.dmaBase + BitVec.ofNat 32 (0x40 * chanIndex n + k)) .word = .ok v := by
    intro k v h4 hk hv
    have hn : chanIndex n ≤ 3 := by cases n <;> decide
    rw [producerLoad_dmaWin hc (by omega) (by omega), hv]
  refine ⟨reg _ _ rfl (by decide) ?_, reg _ _ rfl (by decide) ?_, reg _ _ rfl (by decide) ?_,
    reg _ _ rfl (by decide) ?_, reg _ _ rfl (by decide) ?_, reg _ _ rfl (by decide) ?_,
    fun k h4 hlo hhi => reg _ _ h4 (by omega) ?_⟩
  case refine_4 =>
    rw [dmaRegRead_block s n (by decide)]
    exact eq_ofNat_of_toNat (ctrl_toWord_toNat _)
  case refine_7 =>
    rw [dmaRegRead_block s n (by omega)]
    simp (disch := omega) only [if_neg]
  all_goals exact dmaRegRead_block s n (by decide)

/-- Settles O29: a load of a window is the register there, and each register's word is the sum of its fields. -/
theorem registerWindowReads : Obligations.RegisterWindowReads := by
  intro s hc
  refine ⟨?_, ?_⟩
  · have reg : ∀ k v, k % 4 = 0 → k < 0x100 → regRead s k = v →
        producerLoad s (s.cfg.regBase + BitVec.ofNat 32 k) .word = .ok v :=
      fun k v h4 hk hv => by rw [producerLoad_regWin hc h4 hk, hv]
    exact ⟨reg _ _ rfl (by decide) (eq_ofNat_of_toNat (ctrlWord_toNat s)),
      reg _ _ rfl (by decide) (eq_ofNat_of_toNat (statusWord_toNat s)),
      reg _ _ rfl (by decide) (eq_ofNat_of_toNat (intfWord_toNat s)),
      reg _ _ rfl (by decide) (eq_ofNat_of_toNat (inteWord_toNat s)),
      reg _ _ rfl (by decide) rfl, reg _ _ rfl (by decide) rfl, reg _ _ rfl (by decide) rfl,
      reg _ _ rfl (by decide) (eq_ofNat_of_toNat (pendvWord_toNat s)),
      reg _ _ rfl (by decide) (eq_ofNat_of_toNat (tposWord_toNat s)),
      reg _ _ rfl (by decide) (eq_ofNat_of_toNat (drowWord_toNat s)),
      reg _ _ rfl (by decide) (eq_ofNat_of_toNat (vswaitWord_toNat s)),
      reg _ _ rfl (by decide) rfl,
      fun k h4 hk => reg _ _ h4 (by omega) (regRead_reserved s (by omega))⟩
  · simp only [List.forall_mem_cons, List.not_mem_nil, false_imp_iff, implies_true, and_true]
    exact ⟨dmaBlock_loads hc .a, dmaBlock_loads hc .b, dmaBlock_loads hc .c, dmaBlock_loads hc .d⟩

/-! ## The state after `construct` -/

theorem ctrlWord_run (s : State) : (ctrlWord s).getLsbD 0 = s.regs.run := by
  simp only [ctrlWord, BitVec.getLsbD_append]
  simp

theorem ctrlWord_mode (s : State) : (ctrlWord s).getLsbD 1 = decide (s.cfg.mode = .indexed) := by
  simp only [ctrlWord, BitVec.getLsbD_append]
  simp

theorem ctrlWord_rowShift (s : State) : (ctrlWord s).getLsbD 2 = s.cfg.rowShift := by
  simp only [ctrlWord, BitVec.getLsbD_append]
  simp

/-- `CTRL` has no field above bit 3 (`10_state.md` R120). -/
theorem ctrlWord_high (s : State) : ctrlWord s >>> 4 = 0 := by
  have hsum := ctrlWord_toNat s
  have hrun := s.regs.run.toNat_le
  have hmode := (decide (s.cfg.mode = .indexed)).toNat_le
  have hshift := s.cfg.rowShift.toNat_le
  have hrot := (decide (s.cfg.rotation = 180)).toNat_le
  apply BitVec.eq_of_toNat_eq
  simp only [BitVec.toNat_ushiftRight, Nat.shiftRight_eq_div_pow, BitVec.ofNat_eq_ofNat, BitVec.toNat_ofNat]
  omega

theorem chan_ofConfig (c : Config) (n : ChanId) : (State.ofConfig c).chan n = .zero := by
  cases n <;> rfl

theorem producers_ofConfig_idle {c : Config} {p : Producer} (h : p ∈ (State.ofConfig c).producers) :
    p.cmd = .idle := by
  rw [List.eq_of_mem_replicate h]
  rfl

/-- Settles O1, from the general facts on `CTRL` and on the words of the flags. -/
theorem constructLeavesTheResetValues : Obligations.ConstructLeavesTheResetValues := by
  intro c s
  have zero : ∀ n, s.chan n = .zero := chan_ofConfig c
  exact ⟨Scope.construct_of_wf, rfl, rfl,
    ⟨ctrlWord_run s, ctrlWord_mode s, ctrlWord_rowShift s, Scope.ctrlWord_rot180 s, ctrlWord_high s⟩,
    rfl, eq_ofNat_of_toNat (intfWord_toNat s), eq_ofNat_of_toNat (inteWord_toNat s), rfl, rfl, rfl,
    eq_ofNat_of_toNat (pendvWord_toNat s), eq_ofNat_of_toNat (tposWord_toNat s),
    eq_ofNat_of_toNat (drowWord_toNat s), eq_ofNat_of_toNat (vswaitWord_toNat s),
    rfl, rfl, rfl, rfl, rfl, rfl, rfl, rfl, rfl, rfl, rfl, rfl, rfl, rfl, rfl, rfl, rfl,
    fun n => by rw [zero n]; exact ⟨rfl, rfl, rfl, rfl, rfl⟩,
    List.length_replicate, fun p hp => producers_ofConfig_idle hp⟩

theorem runLegal_zero : RunLegal .zero := ⟨⟨fun h => absurd h Bool.false_ne_true, fun h => absurd rfl h⟩,
  fun h => absurd h Bool.false_ne_true⟩

/-- Whatever the configuration, `construct` leaves a legal state. -/
theorem legal_ofConfig {c : Config} (hc : c.wf = true) : Legal (State.ofConfig c) where
  memory := wf_ofConfig c
  queues := ⟨Nat.zero_le _, Nat.zero_le _, Nat.zero_le _, Nat.zero_le _⟩
  timing := by
    obtain ⟨hvp, -⟩ := Scope.wf_vertical hc
    have hrow : 0 < c.vFront := by
      simp only [Config.vFront, Config.vDisplay, Config.vBack, Config.vPulse]
      omega
    exact ⟨hc, hrow, rfl, timingWordOk_timingWord .none false false 0, Nat.zero_le _⟩
  scan := by
    obtain ⟨-, -, -, -, -, -, -, -, -, -, hfb0, -⟩ := wf_checks hc
    exact ⟨hc, Nat.zero_le _, .inl rfl, hfb0, fun h => absurd h Bool.false_ne_true⟩
  pump := ⟨hc, Nat.zero_le _, by simp [State.ofConfig], by simp [State.ofConfig], fun _ => rfl⟩
  backlight := ⟨hc, Nat.zero_le _⟩
  engines := ⟨rfl, rfl, rfl, rfl, id, rfl, Nat.zero_le _, fun _ => rfl⟩
  chain :=
    { programmed := by
        have atReset : ∀ p, ChannelLegal false .zero p := fun p => .inl ⟨rfl, rfl⟩
        exact ⟨atReset _, atReset _, fun _ => atReset _, fun _ => atReset _, fun _ => ⟨rfl, rfl⟩, .inl rfl,
          .inl rfl⟩
      runs :=
        ⟨runLegal_zero, runLegal_zero, runLegal_zero, runLegal_zero, Nat.zero_le 1, Nat.zero_le 1, Nat.zero_le 1,
          fun ⟨hA, _⟩ => absurd hA Bool.false_ne_true, fun ⟨hC, _⟩ => absurd hC Bool.false_ne_true⟩
      addresses := ⟨fun h => absurd h Bool.false_ne_true, fun h => absurd h Bool.false_ne_true, rfl⟩ }
  producers := fun p hp => by rw [producers_ofConfig_idle hp]; trivial

/-- Settles O48: `EX2` passes the checks of `construct`. -/
theorem resetIsLegal : Obligations.ResetIsLegal := legal_ofConfig (by decide)

end Sys2Proof.StateRules
end

section
/-! What a step does to memory and to the registers that the agents share, said once for each agent: at most one
access is stored (`20_memory.md` R203), and `LIVEBASE`, `LINEPTR`, `display_row` and the vsync flag move only with
DISP and `INIT` (R217). -/

namespace Sys2Proof.SharedState

open Sys2Proof Sys2Proof.Machine Sys2Proof.Safety Sys2Proof.Laws

/-- Memory after at most one access has been stored. -/
inductive Stored (m : List Host.Cell) : List Host.Cell → Prop
  | nothing : Stored m m
  | access (a : Word) (z : Size) (v : Word) : Stored m (memWrite m a z v)

/-- The scan registers stay, and a vsync flag that was set is still set. -/
structure ScanKept (r r' : Regs) : Prop where
  liveBase : r'.liveBase = r.liveBase
  linePtr : r'.linePtr = r.linePtr
  displayRow : r'.displayRow = r.displayRow
  vsWait : r.vsWait = true → r'.vsWait = true

/-- No register but `STATUS` changes. -/
def StatusOnly (r r' : Regs) : Prop := r' = { r with status := r'.status }

/-- What the `INIT` that starts the block does to the shared registers (`46_host_commands.md` R810). -/
structure BlockStarted (r r' : Regs) : Prop where
  wasOff : r.run = false
  isOn : r'.run = true
  liveBase : r'.liveBase = r.liveBase
  linePtr : r'.linePtr = r.liveBase
  displayRow : r'.displayRow = 0
  vsWait : r'.vsWait = r.vsWait

theorem stored_of_eq {m m' : List Host.Cell} (h : m' = m) : Stored m m' := h ▸ .nothing

theorem ScanKept.refl (r : Regs) : ScanKept r r := ⟨rfl, rfl, rfl, id⟩

theorem ScanKept.trans {r r' r'' : Regs} (h : ScanKept r r') (k : ScanKept r' r'') : ScanKept r r'' :=
  ⟨k.liveBase.trans h.liveBase, k.linePtr.trans h.linePtr, k.displayRow.trans h.displayRow,
    fun hw => k.vsWait (h.vsWait hw)⟩

theorem StatusOnly.trans {r r' r'' : Regs} (h : StatusOnly r r') (k : StatusOnly r' r'') :
    StatusOnly r r'' := by
  rw [StatusOnly, k, h]

theorem StatusOnly.scanKept {r r' : Regs} (h : StatusOnly r r') : ScanKept r r' := by
  rw [StatusOnly] at h
  constructor <;> rw [h]
  exact id

theorem raise_statusOnly (c : Code) (s : State) : StatusOnly s.regs (raise c s).regs := rfl

/-! ## Triggers and starts -/

theorem trigger_statusOnly {n : ChanId} {v : Word} {s t : State} (h : trigger n v s = .ok t) :
    StatusOnly s.regs t.regs := by
  obtain ⟨rfl, -⟩ := trigger_ok h
  exact raiseIf_regs _ _ s

/-- The start of the channels writes channel registers, and may raise `DMA_RETRIGGER`. -/
theorem startChannels_frame {s t : State} (h : startChannels s = .ok t) :
    t.mem = s.mem ∧ StatusOnly s.regs t.regs := by
  simp only [startChannels] at h
  split at h
  · cases h
  · rename_i u hA
    split at h
    · cases h
      exact ⟨trigger_mem hA, trigger_statusOnly hA⟩
    · exact ⟨(trigger_mem h).trans (trigger_mem hA), (trigger_statusOnly hA).trans (trigger_statusOnly h)⟩

/-! ## The tick -/

theorem pumpCycle_scanKept (b : Bool) (s : State) : ScanKept s.regs (pumpCycle b s).regs := by
  have hregs := congrArg State.regs (pumpCycle_frame b s)
  constructor <;> rw [hregs]
  exact id

theorem deliver_scanKept (t : Trig) (s : State) : ScanKept s.regs (deliver t s).regs := by
  have hregs := congrArg State.regs (deliver_frame t s)
  constructor <;> rw [hregs]
  exact id

theorem wordTick_scanKept (t : Trig) (n : BitVec 16) (hs vs : Bool) (s : State) :
    ScanKept s.regs (wordTick t n hs vs s).regs := by
  unfold wordTick
  have pump := pumpCycle_scanKept s.regs.startF
    { s with tgen := (s.tgen.loadWord (timingWord t vs hs n) n).cycle hs vs }
  simp only []
  split
  · exact pump.trans (deliver_scanKept t _)
  · exact pump

theorem stallTick_scanKept (s : State) : ScanKept s.regs (stallTick s).regs :=
  (raise_statusOnly .tqUnderrun s).scanKept.trans (pumpCycle_scanKept s.regs.startF _)

theorem tickStep_frame {s t : State} (h : tickStep s = .next t) : t.mem = s.mem ∧ ScanKept s.regs t.regs := by
  rcases tickStep_next h with ⟨-, -, rfl⟩ | ⟨w, q, -, -, -, rfl⟩ | ⟨-, -, rfl⟩
  · exact ⟨stallTick_mem s, stallTick_scanKept s⟩
  · exact ⟨wordTick_mem .., wordTick_scanKept _ _ _ _ { s with tgen := { s.tgen with tq := q } }⟩
  · exact ⟨wordTick_mem .., wordTick_scanKept ..⟩

/-! ## The DMA channels -/

theorem dmaLoad_statusOnly (s : State) (a : Word) : StatusOnly s.regs (dmaLoad s a).2.regs := by
  have pop : StatusOnly s.regs (popPlo s).2.regs := by
    unfold popPlo
    split
    · exact raise_statusOnly _ s
    · rfl
  unfold dmaLoad
  split
  · exact raise_statusOnly _ s
  · split
    · rfl
    · split
      · exact pop
      · rfl
    · rfl
    · exact raise_statusOnly _ s

theorem portStore_statusOnly (s : State) (off : Nat) (v : Word) : StatusOnly s.regs (portStore s off v).regs := by
  have pf : StatusOnly s.regs (pushPf s v).regs := by
    unfold pushPf
    split
    · exact raise_statusOnly _ s
    · rfl
  have pli : StatusOnly s.regs (pushPli s v).regs := by
    unfold pushPli
    split
    · exact raise_statusOnly _ s
    · rfl
  unfold portStore
  split_ifs
  · exact pf
  · exact pli
  · rfl
  · exact raise_statusOnly _ s

theorem dmaStore_statusOnly {s t : State} {a v : Word} (h : dmaStore s a v = .ok t) :
    StatusOnly s.regs t.regs := by
  rcases dmaStore_ok h with ⟨-, rfl⟩ | ⟨off, -, rfl⟩ | ⟨off, -, -, -, ht⟩ | rfl
  · rfl
  · exact portStore_statusOnly s off v
  · exact trigger_statusOnly ht
  · exact raise_statusOnly _ s

/-- A DMA store leaves memory alone unless its address lies in RAM. -/
theorem dmaStore_mem {s t : State} {a v : Word} (h : dmaStore s a v = .ok t) :
    t.mem = s.mem ∨ s.cfg.inRam a 4 = true ∧ t.mem = memWrite s.mem a .word v := by
  rcases dmaStore_ok h with ⟨hr, rfl⟩ | ⟨off, -, rfl⟩ | ⟨off, -, -, -, ht⟩ | rfl
  · exact .inr ⟨hr, rfl⟩
  · exact .inl (portStore_mem s off v)
  · exact .inl (trigger_mem ht)
  · exact .inl rfl

/-- The completion writes channel registers, and may raise `DMA_RETRIGGER` (`44_dma_chain.md` R614). -/
theorem dmaComplete_frame {n : ChanId} {s t : State} (h : dmaComplete n s = .ok t) :
    t.mem = s.mem ∧ StatusOnly s.regs t.regs := by
  simp only [dmaComplete] at h
  split at h
  · cases h
  · split at h
    · cases h
      exact ⟨rfl, rfl⟩
    · have hmem := trigger_mem h
      have hregs := trigger_statusOnly h
      exact ⟨hmem, hregs⟩

theorem dmaCount_frame {n : ChanId} {s t : State} (h : dmaCount n s = .ok t) :
    t.mem = s.mem ∧ StatusOnly s.regs t.regs := by
  simp only [dmaCount] at h
  split at h
  · exact dmaComplete_frame (s := s.setChan n (s.chan n).counted) h
  · cases h
    exact ⟨rfl, rfl⟩

theorem dmaStep_statusOnly {n : ChanId} {s t : State} (h : dmaStep n s = .ok t) : StatusOnly s.regs t.regs := by
  simp only [dmaStep] at h
  split at h
  · obtain ⟨u, hstore, hcount⟩ := dmaTransfer_ok h
    exact ((dmaLoad_statusOnly s _).trans (dmaStore_statusOnly hstore)).trans (dmaCount_frame hcount).2
  · cases h

/-- A channel's step stores at most one word, at its `WRITE_ADDR`, and only where that lies in RAM
(`44_dma_chain.md` R612). -/
theorem dmaStep_mem {n : ChanId} {s t : State} (h : dmaStep n s = .ok t) :
    t.mem = s.mem ∨ s.cfg.inRam (s.chan n).writeAddr 4 = true ∧
      ∃ v, t.mem = memWrite s.mem (s.chan n).writeAddr .word v := by
  simp only [dmaStep] at h
  split at h
  · obtain ⟨u, hstore, hcount⟩ := dmaTransfer_ok h
    obtain ⟨hmem, -⟩ := dmaCount_frame hcount
    rw [hmem]
    rcases dmaStore_mem hstore with hu | ⟨hr, hu⟩
    · exact .inl (hu.trans (dmaLoad_mem ..))
    · rw [dmaLoad_cfg] at hr
      rw [dmaLoad_mem] at hu
      exact .inr ⟨hr, _, hu⟩
  · cases h

/-! ## The dispatcher -/

/-- The registers a frame transition leaves (`45_dispatcher.md` R710), but for what the start of the channels
raises. -/
def frameRegs (r : Regs) : Regs := { r.takeFrame with linePtr := r.takeFrame.liveBase, vsWait := false }

theorem frameTransition_frame {s t : State} (h : frameTransition s = .ok t) :
    t.mem = s.mem ∧ t.regs = { frameRegs s.regs with status := t.regs.status } := by
  simp only [frameTransition, frameQuiesce_regs] at h
  split at h
  · cases h
  · rename_i u hstart
    cases h
    obtain ⟨hmem, hregs⟩ := startChannels_frame hstart
    refine ⟨hmem.trans (frameQuiesce_mem _), ?_⟩
    rw [StatusOnly] at hregs
    rw [hregs]
    rfl

/-- A DISP step: the frame transition when a frame event is pending, else the line transition. -/
theorem dispStep_frame {s t : State} (h : dispStep s = .ok t) :
    t.mem = s.mem ∧
      (framePending s = true ∧ t.regs = { frameRegs s.regs with status := t.regs.status } ∨
        framePending s = false ∧ t = lineTransition s) := by
  simp only [dispStep] at h
  split at h
  · rename_i hf
    obtain ⟨hmem, hregs⟩ := frameTransition_frame h
    exact ⟨hmem, .inl ⟨hf, hregs⟩⟩
  · rename_i hf
    cases h
    exact ⟨rfl, .inr ⟨Bool.eq_false_of_not_eq_true hf, rfl⟩⟩

/-! ## The producers -/

/-- The effect of an access or of a later step of a command: at most one access is stored, and no register
moves. -/
def AccessOnly (s t : State) : Prop := Stored s.mem t.mem ∧ t.regs = s.regs

theorem setCmd_accessOnly (s : State) (c : Cmd) : AccessOnly s (s.setCmd c) :=
  ⟨stored_of_eq (setCmd_mem s c), setCmd_regs s c⟩

theorem producerStore_accessOnly {s t : State} {a : Word} {z : Size} {v : Word}
    (h : producerStore s a z v = .ok t) : AccessOnly s t := by
  obtain ⟨-, -, rfl⟩ := producerStore_ok h
  exact ⟨.access a z v, rfl⟩

theorem copyPixel_accessOnly {s t : State} {src dest : Word} {layers o : Nat}
    (h : copyPixel s src layers dest o = .ok t) : AccessOnly s t := by
  obtain ⟨v, -, rfl⟩ := copyPixel_ok h
  exact ⟨.access _ _ v, rfl⟩

theorem thenCmd_accessOnly {s t : State} {r : Except Refusal State} {c : Cmd} (h : thenCmd r c = .ok t)
    (hr : ∀ u, r = .ok u → AccessOnly s u) : AccessOnly s t := by
  cases r with
  | error e => cases h
  | ok u =>
    cases h
    obtain ⟨hmem, hregs⟩ := hr u rfl
    exact ⟨by rwa [setCmd_mem], by rwa [setCmd_regs]⟩

theorem cmdStep_accessOnly {c : Cmd} {s t : State} (h : cmdStep c s = .ok t) : AccessOnly s t := by
  cases c with
  | idle => cases h; exact ⟨.nothing, rfl⟩
  | waitVsync => cases h; exact setCmd_accessOnly s _
  | uRead src layers dest cur =>
    simp only [cmdStep, stepURead] at h
    split at h <;> (cases h; exact setCmd_accessOnly s _)
  | uCopy src layers dest cur re => exact thenCmd_accessOnly h fun u => copyPixel_accessOnly
  | uiWait src layers pal => cases h; exact setCmd_accessOnly s _
  | uiPal src layers pal dest i =>
    simp only [cmdStep, stepUiPal] at h
    split at h
    · cases h
    · exact thenCmd_accessOnly h fun u => producerStore_accessOnly
  | uiCopy src layers dest o => exact thenCmd_accessOnly h fun u => copyPixel_accessOnly
  | pCopy src dest x y w h' yy xx =>
    simp only [cmdStep, stepPCopy] at h
    split at h
    · cases h
    · exact thenCmd_accessOnly h fun u => producerStore_accessOnly

/-- The effect of a producer's step: at most one access is stored, and the shared registers stay or the step is
the `INIT` that starts the block. -/
def ProducerEffect (s t : State) : Prop :=
  Stored s.mem t.mem ∧ (ScanKept s.regs t.regs ∨ BlockStarted s.regs t.regs)

theorem AccessOnly.producerEffect {s t : State} (h : AccessOnly s t) : ProducerEffect s t := by
  obtain ⟨hmem, hregs⟩ := h
  exact ⟨hmem, .inl (hregs ▸ .refl _)⟩

theorem raise_producerEffect (c : Code) (s : State) : ProducerEffect s (raise c s) :=
  ⟨.nothing, .inl (raise_statusOnly c s).scanKept⟩

theorem initBlock_frame {s t : State} (h : initBlock s = .ok t) (hoff : s.regs.run = false) :
    t.mem = s.mem ∧ BlockStarted s.regs t.regs := by
  simp only [initBlock] at h
  split at h
  · cases h
  · rename_i u hstart
    cases h
    obtain ⟨hmem, hregs⟩ := startChannels_frame hstart
    rw [StatusOnly] at hregs
    refine ⟨hmem, hoff, rfl, ?_, ?_, ?_, ?_⟩ <;> rw [hregs]

theorem execInit_effect {s t : State} (h : execInit s = .next t) : ProducerEffect s t := by
  simp only [execInit] at h
  split at h
  · cases h
    exact raise_producerEffect .unsupported s
  · rename_i hoff
    split at h
    · cases h
    · rename_i u hinit
      cases h
      split
      · obtain ⟨hmem, hstart⟩ := initBlock_frame hinit (Bool.eq_false_of_not_eq_true hoff)
        exact ⟨stored_of_eq hmem, .inr hstart⟩
      · exact ⟨.nothing, .inl (raise_statusOnly .initFail (drawn s)).scanKept⟩

/-- The two commands that wait for the frame set the vsync flag. -/
theorem setWait_effect (s : State) (c : Cmd) :
    ProducerEffect s (State.setCmd { s with regs := { s.regs with vsWait := true } } c) := by
  refine ⟨stored_of_eq (setCmd_mem _ c), .inl ?_⟩
  constructor <;> simp

theorem execUpdate_effect {src layers pal : Word} {s t : State} (h : execUpdate src layers pal s = .next t) :
    ProducerEffect s t := by
  simp only [execUpdate] at h
  split at h
  · cases h
    exact raise_producerEffect .argRange s
  · split at h
    · cases h
      exact (setCmd_accessOnly s _).producerEffect
    · cases h
      exact setWait_effect s _

theorem execPartialUpdate_effect {src layers : Word} {x y w n : BitVec 16} {s t : State}
    (h : execPartialUpdate src layers x y w n s = .next t) : ProducerEffect s t := by
  simp only [execPartialUpdate] at h
  split_ifs at h
  · cases h
    exact raise_producerEffect .unsupported s
  · cases h
    exact raise_producerEffect .argRange s
  · cases h
    exact raise_producerEffect .argRange s
  · cases h
    exact ⟨.nothing, .inl (.refl _)⟩
  · cases h
    exact (setCmd_accessOnly s _).producerEffect

theorem execSetPalette_effect {i c : Word} {s t : State} (h : execSetPalette i c s = .next t) :
    ProducerEffect s t := by
  simp only [execSetPalette] at h
  split_ifs at h
  · cases h
    exact raise_producerEffect .unsupported s
  · cases h
    exact raise_producerEffect .argRange s
  · exact (producerStore_accessOnly (outcomeOf_next h)).producerEffect

theorem exec_effect {i : Instr} {s t : State} (h : exec i s = .next t) : ProducerEffect s t := by
  have word : ∀ k n hs vs, ProducerEffect s (wordTick k n hs vs s) := fun k n hs vs =>
    ⟨stored_of_eq (wordTick_mem ..), .inl (wordTick_scanKept k n hs vs s)⟩
  cases i with
  | twNone count hs vs => cases h; exact word ..
  | twLineReady count hs vs => cases h; exact word ..
  | twNextLine count hs vs => cases h; exact word ..
  | twFrameReady count hs vs => cases h; exact word ..
  | init => exact execInit_effect h
  | teardown => cases h; exact ⟨.nothing, .inl ⟨rfl, rfl, rfl, id⟩⟩
  | setFramebuffer base =>
    simp only [exec, execSetFramebuffer] at h
    split at h
    · cases h
      exact ⟨.nothing, .inl ⟨rfl, rfl, rfl, id⟩⟩
    · cases h
      exact raise_producerEffect .argRange s
  | waitVsync => cases h; exact setWait_effect s _
  | setPalette index colour => exact execSetPalette_effect h
  | setBacklight brightness =>
    simp only [exec, execSetBacklight] at h
    split at h
    · cases h
      exact raise_producerEffect .argRange s
    · cases h
      exact ⟨.nothing, .inl ⟨rfl, rfl, rfl, id⟩⟩
  | update src layers pal => exact execUpdate_effect h
  | partialUpdate src layers x y w h' => exact execPartialUpdate_effect h

theorem issue_effect {r : Request} {p : Producer} {s t : State} (h : issue r p s = .next t) :
    ProducerEffect s t := by
  cases r with
  | command c =>
    simp only [issue] at h
    split at h
    · exact exec_effect h
    · cases h
      exact raise_producerEffect .unsupported s
  | load a z =>
    simp only [issue] at h
    split at h
    · cases h
    · cases h
      exact ⟨.nothing, .inl (.refl _)⟩
  | store a z v => exact (producerStore_accessOnly (outcomeOf_next h)).producerEffect

theorem producerStep_effect {n : Nat} {s t : State} (h : producerStep n s = .next t) : ProducerEffect s t := by
  rcases producerStep_next h with rfl | ⟨p, r, q, -, -, -, hissue⟩ | ⟨p, -, -, hcmd⟩
  · exact ⟨.nothing, .inl (.refl _)⟩
  · obtain ⟨hmem, hscan⟩ := issue_effect hissue
    exact ⟨hmem, hscan⟩
  · obtain ⟨hmem, hregs⟩ := cmdStep_accessOnly hcmd
    exact ⟨hmem, .inl (hregs ▸ .refl _)⟩

/-! ## The step -/

/-- The effect of a step on the shared registers, with the agent that may have it (`20_memory.md` R217). -/
inductive ScanEffect (s t : State) : Prop
  | kept (h : ScanKept s.regs t.regs)
  | started (h : BlockStarted s.regs t.regs)
  | line (hagent : chosen s = .disp) (hregs : t.regs = (lineTransition s).regs)
  | frame (hagent : chosen s = .disp) (hrun : s.regs.run = true) (hpending : framePending s = true)
    (hregs : t.regs = { frameRegs s.regs with status := t.regs.status })

/-- A step that answers a next state: nothing but the schedule moved, or an enabled agent's step ran. -/
theorem step_runs {s t : State} (h : step s = .next t) :
    t = takeTurn s ∨ enabled (chosen s) s = true ∧ runAgent (chosen s) (takeTurn s) = .next t := by
  obtain ⟨-, hturn⟩ := step_next h
  rcases agentTurn_next hturn with ⟨-, rfl⟩ | ⟨he, hrun⟩
  · exact .inl rfl
  · exact .inr ⟨by rwa [enabled_takeTurn] at he, hrun⟩

theorem runAgent_stored {a : Agent} {s t : State} (h : runAgent a s = .next t) : Stored s.mem t.mem := by
  cases a with
  | tseq => cases h; exact .nothing
  | tgenStart => cases h; exact .nothing
  | tick => exact stored_of_eq (tickStep_frame h).1
  | plu => cases h; exact .nothing
  | dma n =>
    rcases dmaStep_mem (outcomeOf_next h) with hmem | ⟨-, v, hmem⟩
    · exact stored_of_eq hmem
    · exact hmem ▸ .access _ _ v
  | disp => exact stored_of_eq (dispStep_frame (outcomeOf_next h)).1
  | producer n => exact (producerStep_effect h).1

/-- A step stores at most one access. -/
theorem step_stored {s t : State} (h : step s = .next t) : Stored s.mem t.mem := by
  rcases step_runs h with rfl | ⟨-, hrun⟩
  · exact .nothing
  · exact runAgent_stored (s := takeTurn s) hrun

theorem dispEnabled_run {s : State} (h : dispEnabled s = true) : s.regs.run = true := by
  simp only [dispEnabled, Bool.and_eq_true] at h
  exact h.1

/-- Every step's effect on the shared registers. -/
theorem step_scanEffect {s t : State} (h : step s = .next t) : ScanEffect s t := by
  rcases step_runs h with rfl | ⟨he, hrun⟩
  · exact .kept (.refl s.regs)
  · cases ha : chosen s with rw [ha] at he hrun
    | tseq => cases hrun; exact .kept (.refl s.regs)
    | tgenStart => cases hrun; exact .kept (.refl s.regs)
    | tick => exact .kept (tickStep_frame hrun).2
    | plu => cases hrun; exact .kept (.refl s.regs)
    | dma n => exact .kept (dmaStep_statusOnly (outcomeOf_next hrun)).scanKept
    | disp =>
      obtain ⟨-, ⟨hp, hregs⟩ | ⟨-, rfl⟩⟩ := dispStep_frame (outcomeOf_next hrun)
      · exact .frame ha (dispEnabled_run he) hp hregs
      · exact .line ha rfl
    | producer n =>
      obtain ⟨-, hkept | hstart⟩ := producerStep_effect hrun
      · exact .kept hkept
      · exact .started hstart

end Sys2Proof.SharedState
end

section
/-! The statements of `20_memory.md`: the canonical form, who writes memory and the shared registers, the row that
`LINEPTR` publishes, and the answers to a producer's and a channel's accesses. -/

namespace Sys2Proof.MemoryRules

open Sys2Proof Sys2Proof.Machine Sys2Proof.Safety Sys2Proof.Laws Sys2Proof.SharedState

/-! ## The canonical form -/

theorem stored_keeps_wf {m m' : List Host.Cell} (h : Stored m m') (hm : Memory.wf m = true) :
    Memory.wf m' = true := by
  cases h with
  | nothing => exact hm
  | access a z v => exact wf_memWrite a z v hm

/-- Settles O49: whoever moves, at most one access is stored, and a store keeps the canonical form. -/
theorem stepKeepsMemoryCanonical : Obligations.StepKeepsMemoryCanonical :=
  fun _ _ hs h => stored_keeps_wf (step_stored h) hs

/-! ## The row published -/

/-- The rows of a line transition that publishes no sentinel: the next one, still above `HEIGHT`. -/
theorem nextDisplayRow_of_ne_height {c : Config} {r : BitVec 16} (hh : c.height < 2 ^ 16)
    (hne : (nextDisplayRow c r).toNat ≠ c.height) :
    (nextDisplayRow c r).toNat = r.toNat + 1 ∧ r.toNat + 1 < c.height := by
  have hmin : (nextDisplayRow c r).toNat = min (r.toNat + 1) c.height := by
    simp only [nextDisplayRow, BitVec.toNat_ofNat]
    exact Nat.mod_eq_of_lt (by omega)
  rw [hmin] at hne ⊢
  omega

/-- A panel line shows a row of the buffer: `HEIGHT` is even where each row is shown twice (`00_scope.md` R2). -/
theorem shiftRight_lt_bufRows {c : Config} (hc : c.wf = true) {r : Nat} (hr : r < c.height) :
    r >>> c.rowShift.toNat < c.bufRows := by
  obtain ⟨-, -, -, -, heven⟩ := Scope.wf_geometry hc
  rw [Config.bufRows]
  cases hs : c.rowShift with
  | false => simpa using hr
  | true =>
    have := heven hs
    simp only [Bool.toNat_true, Nat.shiftRight_eq_div_pow]
    omega

/-- The offset of a shown row leaves room for the row in the buffer. -/
theorem rowOffset_le {c : Config} (hc : c.wf = true) {r : Nat} (hr : r < c.height) :
    c.stride * (r >>> c.rowShift.toNat) + c.stride ≤ c.bufBytes :=
  Nat.mul_le_mul_left c.stride (shiftRight_lt_bufRows hc hr)

/-- The address of a shown row of a buffer in RAM does not wrap. -/
theorem rowPointer_toNat {c : Config} {live : Word} (hc : c.wf = true) (hlive : c.bufferOk live = true) {r : Nat}
    (hr : r < c.height) :
    (rowPointer c live r).toNat = live.toNat + c.stride * (r >>> c.rowShift.toNat) := by
  obtain ⟨htop, -⟩ := wf_map hc
  obtain ⟨-, -, hend⟩ := (bufferOk_iff c live).1 hlive
  have hoff := rowOffset_le hc hr
  obtain ⟨-, -, -, -, -, -, -, hstride, -⟩ := wf_sizes hc
  rw [rowPointer, if_neg hr.ne]
  exact offset_toNat (by omega)

/-- Settles O33: the rows rise with `display_row`, and their addresses with them. -/
theorem linePointerMovesForward : Obligations.LinePointerMovesForward := by
  rintro s t ⟨hc, -, hptr, hlive, -⟩ he hp hturn hne
  have ht : t = lineTransition s := by
    rcases agentTurn_next hturn with ⟨hoff, -⟩ | ⟨-, hrun⟩
    · cases he.symm.trans hoff
    · obtain ⟨-, ⟨hframe, -⟩ | ⟨-, ht⟩⟩ := dispStep_frame (outcomeOf_next hrun)
      · rw [hp] at hframe
        cases hframe
      · exact ht
  have hnew : t.regs.linePtr =
      rowPointer s.cfg s.regs.liveBase (nextDisplayRow s.cfg s.regs.displayRow).toNat := by
    rw [ht]
    rfl
  obtain ⟨-, -, -, hheight, -⟩ := wf_sizes hc
  obtain ⟨hnext, hlt⟩ := nextDisplayRow_of_ne_height hheight fun hend =>
    hne (by rw [hnew, rowPointer, if_pos hend])
  rw [hnew, hnext, rowPointer_toNat hc hlive hlt]
  refine ⟨?_, Nat.le_add_right _ _, ?_⟩
  · rcases hptr with h0 | hrow
    · rw [h0]
      exact Nat.zero_le _
    · rw [hrow, rowPointer_toNat hc hlive (by omega)]
      refine Nat.add_le_add_left (Nat.mul_le_mul_left _ ?_) _
      simp only [Nat.shiftRight_eq_div_pow]
      exact Nat.div_le_div_right (Nat.le_succ _)
  · have hroom := rowOffset_le hc hlt
    omega

/-! ## The writers of the shared registers -/

theorem framePending_iff (s : State) :
    framePending s = true ↔ s.regs.frameF = true ∧ s.regs.frameE = true := by
  simp only [framePending, Bool.and_eq_true]

/-- A frame transition takes the mailbox only when it is full. -/
theorem takeFrame_liveBase (r : Regs) :
    r.takeFrame.liveBase = if r.pendValid = true then r.pendAddr else r.liveBase := rfl

/-- Settles O59: of the four effects a step can have, each clause is met by those that move its register. -/
theorem sharedRegistersHaveOneWriter : Obligations.SharedRegistersHaveOneWriter := by
  intro s t h
  cases step_scanEffect h with
  | kept hk =>
    obtain ⟨hlive, hptr, hrow, hwait⟩ := hk
    refine ⟨fun hne => absurd hlive hne, fun hne => ?_, fun hw hclear => ?_⟩
    · exact absurd hne (not_or.mpr ⟨not_not.mpr hptr, not_not.mpr hrow⟩)
    · rw [hwait hw] at hclear
      cases hclear
  | started hs =>
    obtain ⟨hoff, hon, hlive, hptr, hrow, hwait⟩ := hs
    refine ⟨fun hne => absurd hlive hne, fun _ => .inr ⟨hoff, hon, hptr, hrow⟩, fun hw hclear => ?_⟩
    rw [hwait, hw] at hclear
    cases hclear
  | line hagent hregs =>
    rw [hregs]
    refine ⟨fun hne => absurd rfl hne, fun _ => .inl hagent, fun hw hclear => ?_⟩
    rw [show (lineTransition s).regs.vsWait = s.regs.vsWait from rfl, hw] at hclear
    cases hclear
  | frame hagent hrun hpending hregs =>
    obtain ⟨hflag, henable⟩ := (framePending_iff s).1 hpending
    rw [hregs]
    refine ⟨fun hne => ?_, fun _ => .inl hagent, fun _ _ => ⟨hagent, hrun, hflag, henable, rfl, rfl, rfl⟩⟩
    have hlive : (frameRegs s.regs).liveBase = _ := takeFrame_liveBase s.regs
    split at hlive
    · rename_i hvalid
      exact ⟨hagent, hflag, henable, hvalid, hlive, rfl⟩
    · exact absurd hlive hne

/-! ## The writers of memory -/

/-- Which channels can be running: those of the mode, enabled and busy (`44_dma_chain.md` R611). -/
theorem dmaRunning_iff (n : ChanId) (s : State) :
    dmaRunning n s = true ↔ s.cfg.hasChan n = true ∧ (s.chan n).ctrl.en = true ∧
      (s.chan n).ctrl.busy = true ∧ (s.chan n).remain ≠ 0 := by
  simp only [dmaRunning, Bool.and_eq_true, decide_eq_true_eq, and_assoc]

/-- An enabled channel is one that `INIT` has programmed. -/
theorem programmed_of_enabled {run : Bool} {x p : Channel} (h : ChannelLegal run x p)
    (he : x.ctrl.en = true) : Programmed x p := by
  rcases h with ⟨rfl, -⟩ | ⟨hprog, -⟩
  · cases he
  · exact hprog

/-- In a legal chain a running channel is as `INIT` programs it for the mode (R640, R650). -/
theorem running_programmed {s : State} {n : ChanId} (h : ChannelsProgrammed s) (hr : dmaRunning n s = true) :
    Programmed (s.chan n) ((programChannels s.cfg).get n) := by
  obtain ⟨hA, hB, hC, hD, -⟩ := h
  obtain ⟨hchan, hen, -⟩ := (dmaRunning_iff n s).1 hr
  cases n with
  | a => exact programmed_of_enabled hA hen
  | b => exact programmed_of_enabled hB hen
  | c =>
    have hm : s.cfg.mode = .indexed := of_decide_eq_true hchan
    simpa only [programChannels, State.chan, Channels.get, hm] using programmed_of_enabled (hC hm) hen
  | d =>
    have hm : s.cfg.mode = .indexed := of_decide_eq_true hchan
    simpa only [programChannels, State.chan, Channels.get, hm] using programmed_of_enabled (hD hm) hen

/-- A word of the register window is not in RAM (`20_memory.md` R202). -/
theorem regWin_not_inRam {c : Config} (hc : c.wf = true) {k : Nat} (h4 : k % 4 = 0) (hk : k < 0x100) :
    c.inRam (offset c.regBase k) 4 = false := by
  obtain ⟨-, hbase, -, hapart, -⟩ := wf_map hc
  have haddr : (offset c.regBase k).toNat = c.regBase.toNat + k := (StateRules.window_address hbase h4 hk).1
  rw [← Bool.not_eq_true, inRam_iff]
  omega

/-- A word of the DMA window is not in RAM (R202). -/
theorem dmaWin_not_inRam {c : Config} (hc : c.wf = true) {k : Nat} (h4 : k % 4 = 0) (hk : k < 0x100) :
    c.inRam (offset c.dmaBase k) 4 = false := by
  obtain ⟨-, -, hbase, -, hapart, -⟩ := wf_map hc
  have haddr : (offset c.dmaBase k).toNat = c.dmaBase.toNat + k := (StateRules.window_address hbase h4 hk).1
  rw [← Bool.not_eq_true, inRam_iff]
  omega

/-- Every channel of the mode stores to a port or to a channel's trigger (`44_dma_chain.md` R640, R650). -/
theorem program_writeAddr_not_inRam {c : Config} (hc : c.wf = true) {n : ChanId} (hn : c.hasChan n = true) :
    c.inRam ((programChannels c).get n).writeAddr 4 = false := by
  cases n with
  | a =>
    simp only [programChannels, Channels.get, programA]
    split
    · exact regWin_not_inRam hc (by decide) (by decide)
    · exact regWin_not_inRam hc (by decide) (by decide)
  | b => exact dmaWin_not_inRam hc (by decide) (by decide)
  | c =>
    have hm : c.mode = .indexed := of_decide_eq_true hn
    simp only [programChannels, Channels.get, hm]
    exact dmaWin_not_inRam hc (by decide) (by decide)
  | d =>
    have hm : c.mode = .indexed := of_decide_eq_true hn
    simp only [programChannels, Channels.get, hm]
    exact regWin_not_inRam hc (by decide) (by decide)

/-- A running channel of a legal chain leaves memory alone. -/
theorem chainStep_mem {s t : State} {n : ChanId} (hc : s.cfg.wf = true) (hp : ChannelsProgrammed s)
    (he : dmaEnabled n s = true) (h : dmaStep n s = .ok t) : t.mem = s.mem := by
  have hr : dmaRunning n s = true := by
    simp only [dmaEnabled, Bool.and_eq_true] at he
    exact he.1
  obtain ⟨hwrite, -⟩ := running_programmed hp hr
  obtain ⟨hchan, -⟩ := (dmaRunning_iff n s).1 hr
  rcases dmaStep_mem h with hmem | ⟨hram, -⟩
  · exact hmem
  · rw [hwrite, program_writeAddr_not_inRam hc hchan] at hram
    cases hram

/-- Settles O60: no agent of the block but a channel can store at all, and in a legal chain no channel stores to
RAM. -/
theorem onlyProducersWriteMemory : Obligations.OnlyProducersWriteMemory := by
  rintro s t ⟨hc, -⟩ hchain h hagent
  have hmem : t.mem = s.mem := by
    rcases step_runs h with rfl | ⟨he, hrun⟩
    · rfl
    · cases ha : chosen s with rw [ha] at he hrun
      | tseq => cases hrun; rfl
      | tgenStart => cases hrun; rfl
      | tick => exact (tickStep_frame hrun).1
      | plu => cases hrun; rfl
      | dma n => exact chainStep_mem (s := takeTurn s) hc hchain.programmed he (outcomeOf_next hrun)
      | disp => exact (dispStep_frame (outcomeOf_next hrun)).1
      | producer n => exact absurd ha (hagent n)
  exact fun a => by rw [hmem]

/-! ## The channels' bad accesses -/

/-- A DMA access of an unmapped address (`20_memory.md` R206). -/
theorem dmaAccess_unmapped {s : State} {a : Word} (v : Word) (hr : region s.cfg a 4 = .unmapped) :
    dmaLoad s a = (0, raise .busError s) ∧ dmaStore s a v = .ok (raise .busError s) := by
  constructor
  · simp [dmaLoad, hr, badLoad]
  · simp [dmaStore, hr]

/-- A store to an offset that is no port of the mode (R205). -/
theorem portStore_bad {s : State} {off : Nat} (v : Word) (htxf : off ≠ offPumpTxf)
    (hplu : off = offPluInf ∨ off = offPluOutf → s.cfg.mode = .direct) :
    portStore s off v = raise .busError s := by
  have hno : ∀ k, k = offPluInf ∨ k = offPluOutf → ¬(off = k ∧ s.cfg.mode = .indexed) := by
    rintro k hk ⟨rfl, hm⟩
    rw [hplu hk] at hm
    cases hm
  rw [portStore, if_neg htxf, if_neg (hno _ (.inl rfl)), if_neg (hno _ (.inr rfl))]

/-- A store to a full `PF` (`10_state.md` R141). -/
theorem portStore_pf_full {s : State} (v : Word) (hfull : s.pump.pf.length = s.cfg.pfDepth) :
    portStore s offPumpTxf v = raise .fifoOverflow s := by
  rw [portStore, if_pos rfl, pushPf, full, if_pos (decide_eq_true hfull)]

/-- A store to a full `PLI` (R141). -/
theorem portStore_pli_full {s : State} (v : Word) (hm : s.cfg.mode = .indexed)
    (hfull : s.plu.pli.length = s.cfg.pliDepth) : portStore s offPluInf v = raise .fifoOverflow s := by
  rw [portStore, if_neg (by decide), if_pos ⟨rfl, hm⟩, pushPli, full, if_pos (decide_eq_true hfull)]

/-- A store to `PLU_OUTF` has no effect (R141). -/
theorem portStore_outf {s : State} (v : Word) (hm : s.cfg.mode = .indexed) : portStore s offPluOutf v = s := by
  rw [portStore, if_neg (by decide), if_neg (fun h => absurd h.1 (by decide)), if_pos ⟨rfl, hm⟩]

theorem popPlo_empty {s : State} (h : s.plu.plo = []) : popPlo s = (0, raise .fifoOverflow s) := by
  simp only [popPlo, h]

/-- A word-aligned store to the DMA window that is to no channel's trigger (`20_memory.md` R205). -/
theorem dmaStore_dmaWin_bad {s : State} {a : Word} {off : Nat} (v : Word) (hc : s.cfg.wf = true)
    (ha : a.toNat = s.cfg.dmaBase.toNat + off) (h4 : off % 4 = 0) (hoff : off < 0x100) (ht : off % 0x40 ≠ 0x10) :
    dmaStore s a v = .ok (raise .busError s) := by
  obtain ⟨-, -, hbase, -⟩ := wf_map hc
  have halign : aligned a .word = true := (aligned_iff _ _).2 (by simp only [Size.bytes]; omega)
  have hregion : region s.cfg a 4 = .dmaWin off := by
    rw [region_dmaWin hc (by decide) (by omega) (by omega), ha, Nat.add_sub_cancel_left]
  simp [dmaStore, halign, hregion, offTrig, ht]

/-- Settles O28: each address has its region, and each region its answer. -/
theorem badDmaAccessesAreReported : Obligations.BadDmaAccessesAreReported := by
  intro s a v h4 hc
  obtain ⟨-, hreg, hdma, -⟩ := wf_map hc
  refine ⟨dmaAccess_unmapped v, fun off ha => ?_, fun off ha hoff => ?_⟩
  · have answer : ∀ {u}, off < 0x100 → portStore s off v = u → dmaStore s a v = .ok u :=
      fun hoff hu => hu ▸ dmaStore_regWin v hc ha (by omega) hoff
    refine ⟨fun h => ?_, ?_, ?_, ?_, ?_, fun h hm => ?_⟩
    · exact answer (by omega) (portStore_bad v (by simp only [offPumpTxf]; omega)
        (by simp only [offPluInf, offPluOutf]; omega))
    · rintro rfl hfull
      exact answer (by decide) (portStore_pf_full v hfull)
    · rintro rfl hm hfull
      exact answer (by decide) (portStore_pli_full v hm hfull)
    · rintro rfl hm hempty
      rw [dmaLoad_regWin hc ha (by decide) (by decide), if_pos ⟨rfl, hm⟩, popPlo_empty hempty]
      rfl
    · rintro rfl hm
      exact answer (by decide) (portStore_outf v hm)
    · exact answer (by omega) (portStore_bad v (by simp only [offPumpTxf]; omega) fun _ => hm)
  · exact dmaStore_dmaWin_bad v hc ha (by omega) hoff

/-! ## The producers' accesses -/

/-- The address lies in the register or the DMA window (`20_memory.md` R202). -/
def InWindow (c : Config) (a : Word) : Prop :=
  c.regBase.toNat ≤ a.toNat ∧ a.toNat < c.regBase.toNat + 0x100 ∨
    c.dmaBase.toNat ≤ a.toNat ∧ a.toNat < c.dmaBase.toNat + 0x100

/-- An aligned access that begins in a 256-byte window ends there. -/
theorem aligned_end_le {a b : Nat} {z : Size} (ha : a % z.bytes = 0) (hb : b % 256 = 0) (h : a < b + 0x100) :
    a + z.bytes ≤ b + 256 := by
  cases z <;> simp only [Size.bytes] at * <;> omega

theorem size_pos (z : Size) : 0 < z.bytes := by cases z <;> decide

/-- An aligned access that begins in a window falls into one. -/
theorem region_inWindow {c : Config} {a : Word} {z : Size} (hc : c.wf = true) (ha : a.toNat % z.bytes = 0)
    (hw : InWindow c a) : ∃ off, region c a z.bytes = .regWin off ∨ region c a z.bytes = .dmaWin off := by
  obtain ⟨-, hreg, hdma, -⟩ := wf_map hc
  rcases hw with ⟨hlo, hhi⟩ | ⟨hlo, hhi⟩
  · exact ⟨_, .inl (region_regWin hc (size_pos z) hlo (aligned_end_le ha hreg hhi))⟩
  · exact ⟨_, .inr (region_dmaWin hc (size_pos z) hlo (aligned_end_le ha hdma hhi))⟩

/-- An access outside RAM and the windows is unmapped (R206). -/
theorem region_unmapped {c : Config} {a : Word} {z : Size} (hr : c.inRam a z.bytes = false)
    (hw : ¬InWindow c a) : region c a z.bytes = .unmapped := by
  have hpos := size_pos z
  simp only [InWindow] at hw
  simp only [region, hr, Bool.false_eq_true, if_false]
  rw [if_neg (by omega), if_neg (by omega)]

theorem access_misaligned {s : State} {a : Word} {z : Size} (v : Word) (h : a.toNat % z.bytes ≠ 0) :
    producerLoad s a z = .error .misalignedAccess ∧ producerStore s a z v = .error .misalignedAccess := by
  have : aligned a z = false := decide_eq_false h
  simp [producerLoad, producerStore, this]

theorem access_unmapped {s : State} {a : Word} {z : Size} (v : Word) (ha : a.toNat % z.bytes = 0)
    (hr : region s.cfg a z.bytes = .unmapped) :
    producerLoad s a z = .error .unmappedAccess ∧ producerStore s a z v = .error .unmappedAccess := by
  have := (aligned_iff a z).2 ha
  simp [producerLoad, producerStore, this, hr]

/-- A store to a window, and a narrow load of one, are refused (R205). -/
theorem access_window {s : State} {a : Word} {z : Size} {off : Nat} (v : Word) (ha : a.toNat % z.bytes = 0)
    (hr : region s.cfg a z.bytes = .regWin off ∨ region s.cfg a z.bytes = .dmaWin off) :
    producerStore s a z v = .error .windowStore ∧
      (z ≠ .word → producerLoad s a z = .error .narrowWindowAccess) := by
  have := (aligned_iff a z).2 ha
  rcases hr with hr | hr
  · exact ⟨by simp [producerStore, this, hr], fun hz => by simp [producerLoad, this, hr, hz]⟩
  · exact ⟨by simp [producerStore, this, hr], fun hz => by simp [producerLoad, this, hr, hz]⟩

/-- Settles O30: an access in RAM is `memRead` or `memWrite`, whose bytes the laws of memory give; elsewhere its
region decides. -/
theorem producerAccesses : Obligations.ProducerAccesses := by
  intro s a v z hc
  refine ⟨fun ha hr => ⟨?_, ?_⟩, access_misaligned v, fun ha hw => ?_, fun ha hr hw => ?_⟩
  · have hbytes : z.bytes ≤ 4 := by cases z <;> decide
    exact ⟨memRead s.mem a z, producerLoad_ram ha hr, loadBytes_lt _ _ _,
      fun i hi => loadBytes_byte _ hi hbytes⟩
  · exact ⟨_, producerStore_ram v ha hr, rfl, fun b hb => read_memWrite_ne s.mem a z v hb,
      fun hm => ⟨memRead_memWrite a z v hm, fun i hi => read_storeBytes v hm hi⟩⟩
  · obtain ⟨off, hregion⟩ := region_inWindow hc ha hw
    exact access_window v ha hregion
  · exact access_unmapped v ha (region_unmapped hr hw)

end Sys2Proof.MemoryRules
end

section
/-! The two opcode maps of `30_encoding.md`: the fields of a timing word as parts of its value, the rows of the
command map, and the statements on decoding and encoding. -/

namespace Sys2Proof.Encoding

open Sys2Proof Sys2Proof.Machine Sys2Proof.Safety Sys2Proof.Laws

/-! ## The fields of a timing word -/

@[simp] theorem trig_ofBits_bits (t : Trig) : Trig.ofBits t.bits = t := by cases t <;> rfl

theorem trig_bits_ofBits (b : BitVec 2) : (Trig.ofBits b).bits = b := by
  revert b
  decide

/-- `COUNT`, `HS`, `VS` and `TRIG` at bits 0, 16, 17 and 18 (`30_encoding.md` R300). -/
theorem timingWord_toNat (t : Trig) (vs hs : Bool) (count : BitVec 16) :
    (timingWord t vs hs count).toNat =
      count.toNat + 2 ^ 16 * hs.toNat + 2 ^ 17 * vs.toNat + 2 ^ 18 * t.bits.toNat := by
  simp only [timingWord, StateRules.toNat_append_add, BitVec.toNat_ofBool, BitVec.toNat_ofNat, Nat.zero_mod]
  omega

theorem wordCount_toNat (w : Word) : (wordCount w).toNat = w.toNat % 2 ^ 16 := by
  simp [wordCount]

theorem toNat_getLsbD (w : Word) (i : Nat) : (w.getLsbD i).toNat = w.toNat / 2 ^ i % 2 := by
  rw [BitVec.getLsbD, Nat.toNat_testBit]

theorem wordTrig_bits_toNat (w : Word) : (wordTrig w).bits.toNat = w.toNat / 2 ^ 18 % 4 := by
  simp [wordTrig, trig_bits_ofBits, Nat.shiftRight_eq_div_pow]

theorem trig_bits_injective : Function.Injective Trig.bits :=
  Function.LeftInverse.injective trig_ofBits_bits

theorem bool_toNat_injective : Function.Injective Bool.toNat := by decide

section
variable (t : Trig) (vs hs : Bool) (count : BitVec 16)

@[simp] theorem wordCount_timingWord : wordCount (timingWord t vs hs count) = count := by
  apply BitVec.eq_of_toNat_eq
  rw [wordCount_toNat, timingWord_toNat]
  omega

@[simp] theorem wordHs_timingWord : wordHs (timingWord t vs hs count) = hs := by
  have hhs := hs.toNat_le
  apply bool_toNat_injective
  rw [wordHs, toNat_getLsbD, timingWord_toNat]
  omega

@[simp] theorem wordVs_timingWord : wordVs (timingWord t vs hs count) = vs := by
  have hhs := hs.toNat_le
  have hvs := vs.toNat_le
  apply bool_toNat_injective
  rw [wordVs, toNat_getLsbD, timingWord_toNat]
  omega

@[simp] theorem wordTrig_timingWord : wordTrig (timingWord t vs hs count) = t := by
  have hhs := hs.toNat_le
  have hvs := vs.toNat_le
  apply trig_bits_injective
  apply BitVec.eq_of_toNat_eq
  rw [wordTrig_bits_toNat, timingWord_toNat]
  omega

end

/-- A word with no reserved bit is the word of its fields. -/
theorem timingWord_fields {w : Word} (h : timingWordOk w = true) :
    timingWord (wordTrig w) (wordVs w) (wordHs w) (wordCount w) = w := by
  have hlt : w.toNat < 2 ^ 20 := by
    by_contra hge
    rw [(Scope.timingWordOk_eq_false_iff w).mpr (Nat.le_of_not_lt hge)] at h
    exact Bool.false_ne_true h
  apply BitVec.eq_of_toNat_eq
  rw [timingWord_toNat, wordTrig_bits_toNat, wordCount_toNat, wordVs, wordHs, toNat_getLsbD, toNat_getLsbD]
  omega

theorem encode_ofTiming (t : Trig) (count : BitVec 16) (hs vs : Bool) :
    encode (Instr.ofTiming t count hs vs) = .timing (timingWord t vs hs count) := by
  cases t <;> rfl

/-- The timing-word map reads back the fields a word is built of (R304). -/
theorem decode_timingWord (t : Trig) (vs hs : Bool) (count : BitVec 16) :
    decode (.timing (timingWord t vs hs count)) = .ok (Instr.ofTiming t count hs vs) := by
  simp [decode, decodeTiming, timingWordOk_timingWord]

/-! ## The two halves of `ARG2` and `ARG3` -/

theorem low_append (y x : BitVec 16) : (y ++ x : Word).extractLsb' 0 16 = x :=
  BitVec.extractLsb'_append_eq_right

theorem high_append (y x : BitVec 16) : (y ++ x : Word).extractLsb' 16 16 = y :=
  BitVec.extractLsb'_append_eq_left

theorem high_append_low (a : Word) : a.extractLsb' 16 16 ++ a.extractLsb' 0 16 = a := by
  apply BitVec.eq_of_toNat_eq
  simp only [StateRules.toNat_append_add, BitVec.extractLsb'_toNat, Nat.shiftRight_eq_div_pow]
  omega

/-! ## Decoding an encoded instruction -/

theorem decode_partialUpdate (src layers yx hw : Word) :
    decode (.command ⟨0x00000008, src, layers, yx, hw⟩) =
      .ok (.partialUpdate src layers (yx.extractLsb' 0 16) (yx.extractLsb' 16 16) (hw.extractLsb' 0 16)
        (hw.extractLsb' 16 16)) := rfl

/-- Settles O4: the timing words by their fields, and each row of the command map by its word. -/
theorem decodeOfEncode : Obligations.DecodeOfEncode := by
  intro i
  cases i with
  | twNone count hs vs => exact decode_timingWord .none vs hs count
  | twLineReady count hs vs => exact decode_timingWord .lineReady vs hs count
  | twNextLine count hs vs => exact decode_timingWord .nextLine vs hs count
  | twFrameReady count hs vs => exact decode_timingWord .frameReady vs hs count
  | init => rfl
  | teardown => rfl
  | setFramebuffer base => rfl
  | waitVsync => rfl
  | setPalette index colour => rfl
  | setBacklight brightness => rfl
  | update src layers pal => rfl
  | partialUpdate src layers x y w h =>
    rw [encode, decode_partialUpdate, low_append, high_append, low_append, high_append]

/-! ## Encoding what was decoded -/

theorem encode_of_decode_timing {w : Word} {i : Instr} (h : decode (.timing w) = .ok i) :
    encode i = .timing w := by
  obtain ⟨hok, rfl⟩ := decode_timing_ok h
  rw [encode_ofTiming, timingWord_fields hok]

/-- The command with its first `n` arguments, the others zero (`30_encoding.md` R320). -/
def keepArgs (n : Nat) (c : Command) : Command where
  word := c.word
  arg0 := if 1 ≤ n then c.arg0 else 0
  arg1 := if 2 ≤ n then c.arg1 else 0
  arg2 := if 3 ≤ n then c.arg2 else 0
  arg3 := if 4 ≤ n then c.arg3 else 0

/-- Row by row of R320: the command word, and the arguments the command uses. -/
theorem encode_of_decode_command {c : Command} {i : Instr} (h : decode (.command c) = .ok i) :
    encode i = .command (keepArgs (argCount i) c) := by
  obtain ⟨word, arg0, arg1, arg2, arg3⟩ := c
  simp only [decode, decodeCommand] at h
  split_ifs at h
  iterate 7
    · rename_i hword
      cases h
      cases hword
      rfl
  · rename_i hword
    cases h
    cases hword
    simp only [encode, high_append_low]
    rfl

/-- A command word is reserved exactly when it is none of the eight (R321). -/
theorem decode_command_reserved_iff (c : Command) :
    decode (.command c) = .error .reservedCommandWord ↔ ¬(1 ≤ c.word.toNat ∧ c.word.toNat ≤ 8) := by
  simp only [decode, decodeCommand]
  split_ifs with h1 h2 h3 h4 h5 h6 h7 h8
  case neg =>
    simp only [true_iff]
    bv_omega
  all_goals
    refine iff_of_false id (not_not_intro ?_)
    bv_omega

/-- A timing word is rejected exactly when a bit of 31:20 is set (R303). -/
theorem decode_timing_reserved_iff (w : Word) :
    decode (.timing w) = .error .reservedTimingWord ↔ 2 ^ 20 ≤ w.toNat := by
  rw [← Scope.timingWordOk_eq_false_iff]
  cases hw : timingWordOk w <;> simp [decode, decodeTiming, hw]

/-- Settles O5: a word with no reserved bit is the word of its fields, and a command word names its row. -/
theorem encodeOfDecode : Obligations.EncodeOfDecode :=
  ⟨fun _ _ => encode_of_decode_timing, fun _ _ => encode_of_decode_command, decode_timing_reserved_iff,
    decode_command_reserved_iff⟩

/-! ## Words written out -/

/-- Settles O6: each admitted word is the one its instruction encodes to. -/
theorem specWordsDecode : Obligations.SpecWordsDecode :=
  ⟨decodeOfEncode (.twNone 1 true false), decodeOfEncode (.twLineReady 3 true true),
    decodeOfEncode (.twNextLine 5 true true), decodeOfEncode (.twFrameReady 0xFFFF true true),
    (decode_timing_reserved_iff _).mpr (by decide), decodeOfEncode (.setPalette 3 0x00FF0000),
    decodeOfEncode (.partialUpdate 0x20004000 1 2 1 2 1), (decode_command_reserved_iff _).mpr (by decide)⟩

/-! ## A reserved command -/

/-- The turn of an idle producer issues the request at the head of its queue (`46_host_commands.md` R800). -/
theorem agentTurn_issue {s : State} {n : Nat} {p : Producer} {r : Request} {q : List Request}
    (hp : s.producers[n]? = some p) (hidle : p.cmd = .idle) (hq : p.queue = r :: q) :
    agentTurn (.producer n) s =
      issue r { p with queue := q } ((s.withActor n).setProducer n { p with queue := q }) := by
  have he : enabled (.producer n) s = true := by simp [enabled, producerEnabled, hp, hidle, hq]
  rw [Scope.agentTurn_enabled he]
  simp only [runAgent, producerStep, hp, hidle, hq]

theorem issue_reserved {c : Command} (h : decode (.command c) = .error .reservedCommandWord) (p : Producer)
    (s : State) : issue (.command c) p s = .next (raise .unsupported s) := by
  simp only [issue, h]
  rfl

/-- Settles O9: a reserved word decodes to no command, and the refusal sets one bit. -/
theorem reservedCommandOnlySetsUnsupported : Obligations.ReservedCommandOnlySetsUnsupported := by
  intro s n p c q hp hidle hq hword
  have hreserved := (decode_command_reserved_iff c).mpr (by omega)
  rw [agentTurn_issue hp hidle hq, issue_reserved hreserved]
  rfl

end Sys2Proof.Encoding
end

section
/-! What a step does to the timing sequencer and TGEN, said once for each agent: TSEQ pushes a word
(`40_timing_sequencer.md` R400), the tick loads and counts it (`41_timing_generator.md` R451 to R453), `INIT` and
`TEARDOWN` clear them (`46_host_commands.md` R810, R815), and no other step writes them. -/

namespace Sys2Proof.TimingState

open Sys2Proof Sys2Proof.Machine Sys2Proof.Safety Sys2Proof.Laws

/-! ## A tick with a word in execution -/

/-- Whatever a tick with a word does to TGEN is the load, the drive and the count. -/
theorem wordTick_tgen (t : Trig) (count : BitVec 16) (hs vs : Bool) (s : State) :
    (wordTick t count hs vs s).tgen = (s.tgen.loadWord (timingWord t vs hs count) count).cycle hs vs := by
  unfold wordTick
  simp only []
  split <;> simp

theorem loadWord_begin {g : Tgen} (h : g.remain = 0) (w : Word) (count : BitVec 16) :
    g.loadWord w count = { g with word := w, remain := wordCycles count } := if_pos h

theorem loadWord_resume {g : Tgen} (h : g.remain ≠ 0) (w : Word) (count : BitVec 16) :
    g.loadWord w count = g := if_neg h

/-- The sum does not wrap (`30_encoding.md` R302). -/
theorem wordCycles_toNat (count : BitVec 16) : (wordCycles count).toNat = count.toNat + 3 := by
  have hlt := count.isLt
  simp only [wordCycles, BitVec.toNat_add, BitVec.toNat_setWidth, BitVec.toNat_ofNat]
  omega

@[simp] theorem pumpCycle_lineF (b : Bool) (s : State) : (pumpCycle b s).regs.lineF = s.regs.lineF := by
  rw [congrArg State.regs (pumpCycle_frame b s)]

@[simp] theorem pumpCycle_frameF (b : Bool) (s : State) : (pumpCycle b s).regs.frameF = s.regs.frameF := by
  rw [congrArg State.regs (pumpCycle_frame b s)]

@[simp] theorem deliver_lineF (t : Trig) (s : State) :
    (deliver t s).regs.lineF = (s.regs.lineF || decide (t = .nextLine)) := by
  rw [congrArg State.regs (deliver_frame t s)]

@[simp] theorem deliver_frameF (t : Trig) (s : State) :
    (deliver t s).regs.frameF = (s.regs.frameF || decide (t = .frameReady)) := by
  rw [congrArg State.regs (deliver_frame t s)]

section
variable (t : Trig) (count : BitVec 16) (hs vs : Bool) (s : State)

/-- Only the tick that leaves no cycle to go sets `LINE_F`, and only for `TW.NEXT_LINE` (`41_timing_generator.md`
R455). -/
theorem wordTick_lineF :
    (wordTick t count hs vs s).regs.lineF =
      (s.regs.lineF || (decide ((wordTick t count hs vs s).tgen.remain = 0) && decide (t = .nextLine))) := by
  rw [wordTick_tgen]
  unfold wordTick
  simp only []
  split
  next hlast => simp only [hlast, emitTrace_regs, deliver_lineF, pumpCycle_lineF, decide_true, Bool.true_and]
  next hgoes => simp only [hgoes, emitTrace_regs, pumpCycle_lineF, decide_false, Bool.false_and, Bool.or_false]

/-- Likewise `FRAME_F`, for `TW.FRAME_READY`. -/
theorem wordTick_frameF :
    (wordTick t count hs vs s).regs.frameF =
      (s.regs.frameF || (decide ((wordTick t count hs vs s).tgen.remain = 0) && decide (t = .frameReady))) := by
  rw [wordTick_tgen]
  unfold wordTick
  simp only []
  split
  next hlast => simp only [hlast, emitTrace_regs, deliver_frameF, pumpCycle_frameF, decide_true, Bool.true_and]
  next hgoes => simp only [hgoes, emitTrace_regs, pumpCycle_frameF, decide_false, Bool.false_and, Bool.or_false]

theorem execTimes_ofTiming (k : Nat) :
    execTimes (Instr.ofTiming t count hs vs) k s = some ((wordTick t count hs vs)^[k] s) := by
  induction k generalizing s with
  | zero => rfl
  | succ k ih => simp only [execTimes, exec_ofTiming, ih, Function.iterate_succ_apply]

end

/-- `u` is the state after `k` ticks with the word, which began in `s` (`30_encoding.md` R302). -/
structure RanTicks (tr : Trig) (count : BitVec 16) (hs vs : Bool) (s : State) (k : Nat) (u : State) : Prop where
  remain : u.tgen.remain.toNat = count.toNat + 3 - k
  hsLevel : u.tgen.hs = hs
  vsLevel : u.tgen.vs = vs
  word : u.tgen.word = timingWord tr vs hs count
  tq : u.tgen.tq = s.tgen.tq
  lineF : u.regs.lineF = (s.regs.lineF || (decide (k = count.toNat + 3) && decide (tr = .nextLine)))
  frameF : u.regs.frameF = (s.regs.frameF || (decide (k = count.toNat + 3) && decide (tr = .frameReady)))

/-- The cycles to go run out exactly at the last tick. -/
theorem remain_eq_zero_iff {r : BitVec 17} {n k : Nat} (hr : r.toNat = n - k) (hk : k ≤ n) : r = 0 ↔ k = n := by
  have hzero : (0 : BitVec 17).toNat = 0 := rfl
  rw [← BitVec.toNat_inj, hr, hzero]
  omega

section
variable {tr : Trig} {count : BitVec 16} {hs vs : Bool} {s u : State} {k : Nat}

/-- The tick in which the word begins. -/
theorem ranTicks_one (h : s.tgen.remain = 0) :
    RanTicks tr count hs vs s 1 (wordTick tr count hs vs s) := by
  have hgen : (wordTick tr count hs vs s).tgen =
      { s.tgen with word := timingWord tr vs hs count, remain := wordCycles count - 1, hs := hs, vs := vs } := by
    rw [wordTick_tgen, loadWord_begin h, Tgen.cycle]
  have hcycles := wordCycles_toNat count
  have hremain : (wordTick tr count hs vs s).tgen.remain.toNat = count.toNat + 3 - 1 := by
    rw [hgen]
    bv_omega
  have hlast := remain_eq_zero_iff hremain (by omega)
  exact
    { remain := hremain
      hsLevel := by rw [hgen]
      vsLevel := by rw [hgen]
      word := by rw [hgen]
      tq := by rw [hgen]
      lineF := by rw [wordTick_lineF]; simp only [hlast]
      frameF := by rw [wordTick_frameF]; simp only [hlast] }

/-- A tick in which the word goes on. -/
theorem RanTicks.succ (h : RanTicks tr count hs vs s k u) (hk : k < count.toNat + 3) :
    RanTicks tr count hs vs s (k + 1) (wordTick tr count hs vs u) := by
  have hbefore := h.remain
  have hgoes : u.tgen.remain ≠ 0 := fun h0 => absurd ((remain_eq_zero_iff hbefore hk.le).mp h0) hk.ne
  have hgen : (wordTick tr count hs vs u).tgen =
      { u.tgen with remain := u.tgen.remain - 1, hs := hs, vs := vs } := by
    rw [wordTick_tgen, loadWord_resume hgoes, Tgen.cycle]
  have hremain : (wordTick tr count hs vs u).tgen.remain.toNat = count.toNat + 3 - (k + 1) := by
    rw [hgen]
    bv_omega
  have hlast := remain_eq_zero_iff hremain hk
  exact
    { remain := hremain
      hsLevel := by rw [hgen]
      vsLevel := by rw [hgen]
      word := by rw [hgen]; exact h.word
      tq := by rw [hgen]; exact h.tq
      lineF := by
        rw [wordTick_lineF, h.lineF]
        simp only [hlast, hk.ne, decide_false, Bool.false_and, Bool.or_false]
      frameF := by
        rw [wordTick_frameF, h.frameF]
        simp only [hlast, hk.ne, decide_false, Bool.false_and, Bool.or_false] }

theorem ranTicks_iterate (h : s.tgen.remain = 0) (h1 : 1 ≤ k) (hk : k ≤ count.toNat + 3) :
    RanTicks tr count hs vs s k ((wordTick tr count hs vs)^[k] s) := by
  induction k, h1 using Nat.le_induction with
  | base => exact ranTicks_one h
  | succ k h1 ih =>
    rw [Function.iterate_succ_apply']
    exact (ih (Nat.le_of_succ_le hk)).succ hk

end

/-- Settles O12, by induction over the ticks. -/
theorem wordLastsItsCountPlusThree : Obligations.WordLastsItsCountPlusThree := by
  intro tr count hs vs s k h h1 hk
  have ran := ranTicks_iterate (tr := tr) (hs := hs) (vs := vs) h h1 hk
  exact ⟨_, execTimes_ofTiming tr count hs vs s k, ran.remain, ran.hsLevel, ran.vsLevel, ran.word, ran.tq, ran.lineF,
    ran.frameF⟩

/-! ## The steps that leave TSEQ and TGEN alone -/

/-- All that `TimingLegal` speaks of. -/
def timingPart (s : State) : Config × Tseq × Tgen := (s.cfg, s.tseq, s.tgen)

theorem timingLegal_of_timingPart_eq {s t : State} (h : timingPart t = timingPart s) (hs : TimingLegal s) :
    TimingLegal t := by
  obtain ⟨hcfg, hrest⟩ := Prod.mk.inj h
  obtain ⟨htseq, htgen⟩ := Prod.mk.inj hrest
  rwa [TimingLegal, hcfg, htseq, htgen]

theorem setCmd_timingPart (s : State) (c : Cmd) : timingPart (s.setCmd c) = timingPart s := by
  simp [timingPart]

theorem trigger_timingPart {n : ChanId} {v : Word} {s t : State} (h : trigger n v s = .ok t) :
    timingPart t = timingPart s := by
  obtain ⟨rfl, -⟩ := trigger_ok h
  simp [timingPart]

theorem startChannels_timingPart {s t : State} (h : startChannels s = .ok t) : timingPart t = timingPart s := by
  simp only [startChannels] at h
  split at h
  · cases h
  · rename_i hA
    split at h
    · cases h
      exact trigger_timingPart hA
    · exact (trigger_timingPart h).trans (trigger_timingPart hA)

theorem dmaLoad_timingPart (s : State) (a : Word) : timingPart (dmaLoad s a).2 = timingPart s := by
  simp [timingPart]

theorem dmaStore_timingPart {s t : State} {a v : Word} (h : dmaStore s a v = .ok t) :
    timingPart t = timingPart s := by
  rcases dmaStore_ok h with ⟨-, rfl⟩ | ⟨off, -, rfl⟩ | ⟨off, -, -, -, ht⟩ | rfl
  · rfl
  · simp [timingPart]
  · exact trigger_timingPart ht
  · rfl

theorem dmaComplete_timingPart {n : ChanId} {s t : State} (h : dmaComplete n s = .ok t) :
    timingPart t = timingPart s := by
  simp only [dmaComplete] at h
  split at h
  · cases h
  · split at h
    · cases h
      rfl
    · exact (trigger_timingPart h :)

theorem dmaCount_timingPart {n : ChanId} {s t : State} (h : dmaCount n s = .ok t) :
    timingPart t = timingPart s := by
  simp only [dmaCount] at h
  split at h
  · exact (dmaComplete_timingPart h :)
  · cases h
    rfl

theorem dmaStep_timingPart {n : ChanId} {s t : State} (h : dmaStep n s = .ok t) :
    timingPart t = timingPart s := by
  simp only [dmaStep] at h
  split at h
  · obtain ⟨u, hstore, hcount⟩ := dmaTransfer_ok h
    calc timingPart t = timingPart u := dmaCount_timingPart hcount
      _ = timingPart (dmaLoad s (s.chan n).readAddr).2 := dmaStore_timingPart hstore
      _ = timingPart s := dmaLoad_timingPart s _
  · cases h

theorem frameTransition_timingPart {s t : State} (h : frameTransition s = .ok t) :
    timingPart t = timingPart s := by
  simp only [frameTransition] at h
  split at h
  · cases h
  · rename_i u hstart
    cases h
    exact (startChannels_timingPart hstart).trans (by simp [timingPart])

theorem dispStep_timingPart {s t : State} (h : dispStep s = .ok t) : timingPart t = timingPart s := by
  simp only [dispStep] at h
  split at h
  · exact frameTransition_timingPart h
  · cases h
    rfl

theorem producerStore_timingPart {s t : State} {a : Word} {z : Size} {v : Word}
    (h : producerStore s a z v = .ok t) : timingPart t = timingPart s := by
  obtain ⟨-, -, rfl⟩ := producerStore_ok h
  rfl

theorem copyPixel_timingPart {s t : State} {src dest : Word} {layers o : Nat}
    (h : copyPixel s src layers dest o = .ok t) : timingPart t = timingPart s := by
  obtain ⟨v, -, rfl⟩ := copyPixel_ok h
  rfl

theorem thenCmd_timingPart {s t : State} {r : Except Refusal State} {c : Cmd} (h : thenCmd r c = .ok t)
    (hr : ∀ u, r = .ok u → timingPart u = timingPart s) : timingPart t = timingPart s := by
  cases r with
  | error e => cases h
  | ok u =>
    cases h
    exact (setCmd_timingPart u c).trans (hr u rfl)

theorem cmdStep_timingPart {c : Cmd} {s t : State} (h : cmdStep c s = .ok t) : timingPart t = timingPart s := by
  cases c with
  | idle => cases h; rfl
  | waitVsync => cases h; exact setCmd_timingPart s _
  | uRead src layers dest cur =>
    simp only [cmdStep, stepURead] at h
    split at h <;> (cases h; exact setCmd_timingPart s _)
  | uCopy src layers dest cur re => exact thenCmd_timingPart h fun u => copyPixel_timingPart
  | uiWait src layers pal => cases h; exact setCmd_timingPart s _
  | uiPal src layers pal dest i =>
    simp only [cmdStep, stepUiPal] at h
    split at h
    · cases h
    · exact thenCmd_timingPart h fun u => producerStore_timingPart
  | uiCopy src layers dest o => exact thenCmd_timingPart h fun u => copyPixel_timingPart
  | pCopy src dest x y w h' yy xx =>
    simp only [cmdStep, stepPCopy] at h
    split at h
    · cases h
    · exact thenCmd_timingPart h fun u => producerStore_timingPart

/-! ## The tick keeps the timing state legal -/

theorem wordTick_keeps_timingLegal {s : State} (t : Trig) (count : BitVec 16) (hs vs : Bool)
    (h : TimingLegal s) : TimingLegal (wordTick t count hs vs s) := by
  obtain ⟨hc, hrow, htq, hword, hremain⟩ := h
  have hgen := wordTick_tgen t count hs vs s
  rw [TimingLegal, wordTick_cfg, wordTick_tseq, hgen]
  by_cases h0 : s.tgen.remain = 0
  case pos =>
    have hcycles := wordCycles_toNat count
    have hcount := count.isLt
    rw [loadWord_begin h0]
    refine ⟨hc, hrow, htq, timingWordOk_timingWord t vs hs count, ?_⟩
    simp only [Tgen.cycle]
    bv_omega
  case neg =>
    rw [loadWord_resume h0]
    refine ⟨hc, hrow, htq, hword, ?_⟩
    simp only [Tgen.cycle]
    bv_omega

/-- Popping `TQ` leaves only words that were in it. -/
theorem pop_keeps_timingLegal {s : State} {w : Word} {q : List Word} (hq : s.tgen.tq = w :: q)
    (h : TimingLegal s) : TimingLegal { s with tgen := { s.tgen with tq := q } } := by
  obtain ⟨hc, hrow, htq, hword, hremain⟩ := h
  rw [hq, List.all_cons, Bool.and_eq_true] at htq
  obtain ⟨-, htail⟩ := htq
  exact ⟨hc, hrow, htail, hword, hremain⟩

theorem tickStep_keeps_timingLegal {s t : State} (h : tickStep s = .next t) (hs : TimingLegal s) :
    TimingLegal t := by
  rcases tickStep_next h with ⟨-, -, rfl⟩ | ⟨w, q, -, hq, -, rfl⟩ | ⟨-, -, rfl⟩
  · exact timingLegal_of_timingPart_eq (by simp [timingPart]) hs
  · exact wordTick_keeps_timingLegal _ _ _ _ (pop_keeps_timingLegal hq hs)
  · exact wordTick_keeps_timingLegal _ _ _ _ hs

/-! ## The sequencer keeps it legal -/

/-- TSEQ never computes a word with a reserved bit (`40_timing_sequencer.md` R401 to R404). -/
theorem timingWordOk_phaseWord (c : Config) (phase : BitVec 2) (r : Nat) :
    timingWordOk (phaseWord c phase r) = true := by
  simp only [phaseWord]
  split_ifs <;> exact timingWordOk_timingWord ..

theorem nextRow_lt {c : Config} (hc : c.wf = true) {r : BitVec 16} (hr : r.toNat < c.vFront) :
    (nextRow c r).toNat < c.vFront := by
  obtain ⟨-, -, -, -, -, -, -, -, -, -, -, -, hcounters⟩ := wf_checks hc
  simp only [Config.okCounters, Bool.and_eq_true, decide_eq_true_eq] at hcounters
  obtain ⟨⟨hfront, -⟩, -⟩ := hcounters
  simp only [nextRow]
  split
  next => exact Nat.zero_lt_of_lt hr
  next hne =>
    have hsucc : (r + 1).toNat = r.toNat + 1 := BitVec.toNat_add_of_lt (by simp; omega)
    omega

theorem advance_row_lt {c : Config} (hc : c.wf = true) {q : Tseq} (hr : q.row.toNat < c.vFront) :
    (q.advance c).row.toNat < c.vFront := by
  simp only [Tseq.advance]
  split
  · exact nextRow_lt hc hr
  · exact hr

theorem tseqStep_keeps_timingLegal {s : State} (h : TimingLegal s) : TimingLegal (tseqStep s) := by
  obtain ⟨hc, hrow, htq, hword, hremain⟩ := h
  refine ⟨hc, advance_row_lt hc hrow, ?_, hword, hremain⟩
  simp only [tseqStep, push, List.all_append, htq, Tseq.word, List.all_cons, timingWordOk_phaseWord, List.all_nil,
    Bool.and_true]

/-! ## The commands keep it legal -/

theorem vFront_pos {c : Config} (hc : c.wf = true) : 0 < c.vFront := by
  obtain ⟨hvp, -⟩ := Scope.wf_vertical hc
  simp only [Config.vFront, Config.vDisplay, Config.vBack, Config.vPulse]
  omega

/-- `INIT` starts the sequencer at row 0 and leaves TGEN no word (`46_host_commands.md` R810). -/
theorem initBlock_timingPart {s t : State} (h : initBlock s = .ok t) :
    timingPart t = (s.cfg, { s.tseq with phase := 0, row := 0, en := true },
      { s.tgen with tq := [], word := 0, remain := 0, en := false }) := by
  simp only [initBlock] at h
  split at h
  · cases h
  · rename_i u hstart
    cases h
    obtain ⟨hcfg, hrest⟩ := Prod.mk.inj (startChannels_timingPart hstart)
    obtain ⟨htseq, htgen⟩ := Prod.mk.inj hrest
    simp only [timingPart, hcfg, htseq, htgen]

theorem execInit_keeps_timingLegal {s t : State} (h : execInit s = .next t) (hs : TimingLegal s) :
    TimingLegal t := by
  simp only [execInit] at h
  split at h
  · cases h
    exact hs
  · split at h
    · cases h
    · rename_i u hinit
      cases h
      split
      · obtain ⟨hcfg, hrest⟩ := Prod.mk.inj (initBlock_timingPart hinit)
        obtain ⟨htseq, htgen⟩ := Prod.mk.inj hrest
        obtain ⟨hc, -⟩ := hs
        rw [TimingLegal, hcfg, htseq, htgen]
        exact ⟨hc, vFront_pos hc, rfl, timingWordOk_timingWord .none false false 0, Nat.zero_le _⟩
      · exact hs

/-- `TEARDOWN` empties `TQ` (R815). -/
theorem execTeardown_keeps_timingLegal {s t : State} (h : execTeardown s = .next t) (hs : TimingLegal s) :
    TimingLegal t := by
  cases h
  obtain ⟨hc, hrow, -, hword, hremain⟩ := hs
  exact ⟨hc, hrow, rfl, hword, hremain⟩

theorem execSetFramebuffer_timingPart {b : Word} {s t : State} (h : execSetFramebuffer b s = .next t) :
    timingPart t = timingPart s := by
  simp only [execSetFramebuffer] at h
  split at h <;> (cases h; rfl)

theorem execSetPalette_timingPart {i c : Word} {s t : State} (h : execSetPalette i c s = .next t) :
    timingPart t = timingPart s := by
  simp only [execSetPalette] at h
  split_ifs at h
  · cases h
    rfl
  · cases h
    rfl
  · exact producerStore_timingPart (outcomeOf_next h)

theorem execSetBacklight_timingPart {b : Word} {s t : State} (h : execSetBacklight b s = .next t) :
    timingPart t = timingPart s := by
  simp only [execSetBacklight] at h
  split at h <;> (cases h; rfl)

/-- The two commands that wait for the frame. -/
theorem setWait_timingPart (s : State) (c : Cmd) :
    timingPart (State.setCmd { s with regs := { s.regs with vsWait := true } } c) = timingPart s :=
  setCmd_timingPart _ c

theorem execUpdate_timingPart {src layers pal : Word} {s t : State} (h : execUpdate src layers pal s = .next t) :
    timingPart t = timingPart s := by
  simp only [execUpdate] at h
  split at h
  · cases h
    rfl
  · split at h
    · cases h
      exact setCmd_timingPart s _
    · cases h
      exact setWait_timingPart s _

theorem execPartialUpdate_timingPart {src layers : Word} {x y w n : BitVec 16} {s t : State}
    (h : execPartialUpdate src layers x y w n s = .next t) : timingPart t = timingPart s := by
  simp only [execPartialUpdate] at h
  split_ifs at h
  iterate 4
    · cases h
      rfl
  · cases h
    exact setCmd_timingPart s _

theorem exec_keeps_timingLegal {i : Instr} {s t : State} (h : exec i s = .next t) (hs : TimingLegal s) :
    TimingLegal t := by
  have kept : timingPart t = timingPart s → TimingLegal t := fun ht => timingLegal_of_timingPart_eq ht hs
  cases i with
  | twNone count hs' vs => cases h; exact wordTick_keeps_timingLegal _ _ _ _ hs
  | twLineReady count hs' vs => cases h; exact wordTick_keeps_timingLegal _ _ _ _ hs
  | twNextLine count hs' vs => cases h; exact wordTick_keeps_timingLegal _ _ _ _ hs
  | twFrameReady count hs' vs => cases h; exact wordTick_keeps_timingLegal _ _ _ _ hs
  | init => exact execInit_keeps_timingLegal h hs
  | teardown => exact execTeardown_keeps_timingLegal h hs
  | setFramebuffer base => exact kept (execSetFramebuffer_timingPart h)
  | waitVsync => cases h; exact kept (setWait_timingPart s _)
  | setPalette index colour => exact kept (execSetPalette_timingPart h)
  | setBacklight brightness => exact kept (execSetBacklight_timingPart h)
  | update src layers pal => exact kept (execUpdate_timingPart h)
  | partialUpdate src layers x y w h' => exact kept (execPartialUpdate_timingPart h)

theorem issue_keeps_timingLegal {r : Request} {p : Producer} {s t : State} (h : issue r p s = .next t)
    (hs : TimingLegal s) : TimingLegal t := by
  cases r with
  | command c =>
    simp only [issue] at h
    split at h
    · exact exec_keeps_timingLegal h hs
    · cases h
      exact hs
  | load a z =>
    simp only [issue] at h
    split at h
    · cases h
    · cases h
      exact hs
  | store a z v => exact timingLegal_of_timingPart_eq (producerStore_timingPart (outcomeOf_next h)) hs

theorem producerStep_keeps_timingLegal {n : Nat} {s t : State} (h : producerStep n s = .next t)
    (hs : TimingLegal s) : TimingLegal t := by
  rcases producerStep_next h with rfl | ⟨p, r, q, -, -, -, hissue⟩ | ⟨p, -, -, hcmd⟩
  · exact hs
  · exact issue_keeps_timingLegal hissue hs
  · exact timingLegal_of_timingPart_eq (cmdStep_timingPart hcmd) hs

/-! ## The step keeps it legal -/

theorem runAgent_keeps_timingLegal {a : Agent} {s t : State} (h : runAgent a s = .next t) (hs : TimingLegal s) :
    TimingLegal t := by
  cases a with
  | tseq => cases h; exact tseqStep_keeps_timingLegal hs
  | tgenStart => cases h; exact hs
  | tick => exact tickStep_keeps_timingLegal h hs
  | plu => cases h; exact hs
  | dma n => exact timingLegal_of_timingPart_eq (dmaStep_timingPart (outcomeOf_next h)) hs
  | disp => exact timingLegal_of_timingPart_eq (dispStep_timingPart (outcomeOf_next h)) hs
  | producer n => exact producerStep_keeps_timingLegal h hs

/-- Settles O51: TSEQ pushes no reserved word, TGEN takes its words from `TQ` alone, and the commands only clear
them. -/
theorem stepKeepsTimingLegal : Obligations.StepKeepsTimingLegal := by
  intro s t hs h
  rcases SharedState.step_runs h with rfl | ⟨-, hrun⟩
  · exact hs
  · exact runAgent_keeps_timingLegal (s := takeTurn s) hrun hs

end Sys2Proof.TimingState
end

section
/-! The statements of `40_timing_sequencer.md`: the word and the move of a TSEQ step (R400 to R406), and the triggers
of one frame (R407). -/

namespace Sys2Proof.Sequencer

open Sys2Proof Sys2Proof.Machine Sys2Proof.Safety Sys2Proof.Laws Sys2Proof.Encoding

/-! ## The word of a phase -/

/-- The length in cycles of a phase (`40_timing_sequencer.md` R401 to R404). -/
def phaseLength (c : Config) (phase : BitVec 2) : Nat :=
  if phase = 0 then c.hFront else if phase = 1 then c.hPulse else if phase = 2 then c.hBack else c.hDisplay

/-- The trigger of a phase's word: phases 0 and 1 have none (R401 to R404). -/
def phaseTrig (c : Config) (phase : BitVec 2) (r : Nat) : Trig :=
  if phase = 2 then backPorchTrig c r else if phase = 3 then displayTrig c r else .none

theorem phase_cases (phase : BitVec 2) : phase = 0 ∨ phase = 1 ∨ phase = 2 ∨ phase = 3 := by
  revert phase
  decide

/-- One form for the words of all four phases. -/
theorem phaseWord_eq_timingWord (c : Config) (phase : BitVec 2) (r : Nat) :
    phaseWord c phase r =
      timingWord (phaseTrig c phase r) (vsyncLevel c r) (decide (phase ≠ 1)) (waitCount (phaseLength c phase)) := by
  rcases phase_cases phase with rfl | rfl | rfl | rfl <;> rfl

@[simp] theorem wordTrig_phaseWord (c : Config) (phase : BitVec 2) (r : Nat) :
    wordTrig (phaseWord c phase r) = phaseTrig c phase r := by
  rw [phaseWord_eq_timingWord, wordTrig_timingWord]

@[simp] theorem wordVs_phaseWord (c : Config) (phase : BitVec 2) (r : Nat) :
    wordVs (phaseWord c phase r) = vsyncLevel c r := by
  rw [phaseWord_eq_timingWord, wordVs_timingWord]

@[simp] theorem wordHs_phaseWord (c : Config) (phase : BitVec 2) (r : Nat) :
    wordHs (phaseWord c phase r) = decide (phase ≠ 1) := by
  rw [phaseWord_eq_timingWord, wordHs_timingWord]

@[simp] theorem wordCount_phaseWord (c : Config) (phase : BitVec 2) (r : Nat) :
    wordCount (phaseWord c phase r) = waitCount (phaseLength c phase) := by
  rw [phaseWord_eq_timingWord, wordCount_timingWord]

/-! ## The wait count -/

/-- The bounds of `00_scope.md` R4 keep `H - 3` in 16 bits. -/
theorem waitCount_toNat {h : Nat} (hmin : 3 ≤ h) (hmax : h ≤ 0xFFFF + 3) : (waitCount h).toNat + 3 = h := by
  rw [waitCount, BitVec.toNat_ofNat, Nat.mod_eq_of_lt (by omega)]
  omega

theorem phaseLength_mem (c : Config) (phase : BitVec 2) :
    phaseLength c phase ∈ [c.hFront, c.hPulse, c.hBack, c.hDisplay] := by
  simp only [phaseLength]
  split_ifs <;> simp

/-- A phase's word lasts the length of the phase (`30_encoding.md` R302). -/
theorem waitCount_phaseLength {c : Config} (hc : c.wf = true) (phase : BitVec 2) :
    (waitCount (phaseLength c phase)).toNat + 3 = phaseLength c phase := by
  obtain ⟨hbounds, -⟩ := Scope.wf_phases hc
  obtain ⟨hmin, hmax⟩ := hbounds _ (phaseLength_mem c phase)
  exact waitCount_toNat hmin hmax

/-! ## The triggers -/

theorem backPorchTrig_eq_lineReady_iff (c : Config) (r : Nat) :
    backPorchTrig c r = .lineReady ↔ c.vBack ≤ r ∧ r < c.vDisplay := by
  simp [backPorchTrig]

theorem displayTrig_eq_frameReady_iff (c : Config) (r : Nat) :
    displayTrig c r = .frameReady ↔ r = c.vDisplay := by
  simp only [displayTrig]
  split_ifs <;> simp [*]

/-- `FRAME_READY` has its own row, past the rows of `NEXT_LINE`. -/
theorem displayTrig_eq_nextLine_iff (c : Config) (r : Nat) :
    displayTrig c r = .nextLine ↔ c.vBack - 1 ≤ r ∧ r < c.vDisplay := by
  simp only [displayTrig]
  split_ifs with hframe hline
  · simp [hframe]
  · exact iff_of_true rfl hline
  · exact iff_of_false (by simp) hline

theorem displayTrig_ne_lineReady (c : Config) (r : Nat) : displayTrig c r ≠ .lineReady := by
  simp only [displayTrig]
  split_ifs <;> simp

theorem backPorchTrig_cases (c : Config) (r : Nat) : backPorchTrig c r = .lineReady ∨ backPorchTrig c r = .none :=
  ite_eq_or_eq ..

/-- `LINE_READY` comes from the back porch alone. -/
theorem phaseTrig_eq_lineReady_iff (c : Config) (phase : BitVec 2) (r : Nat) :
    phaseTrig c phase r = .lineReady ↔ phase = 2 ∧ c.vBack ≤ r ∧ r < c.vDisplay := by
  rcases phase_cases phase with rfl | rfl | rfl | rfl
  · simp [phaseTrig]
  · simp [phaseTrig]
  · simp [phaseTrig, backPorchTrig_eq_lineReady_iff]
  · simp [phaseTrig, displayTrig_ne_lineReady]

/-- The other triggers come from the display window alone. -/
theorem phaseTrig_eq_iff_display {t : Trig} (hnone : t ≠ .none) (hline : t ≠ .lineReady) (c : Config)
    (phase : BitVec 2) (r : Nat) : phaseTrig c phase r = t ↔ phase = 3 ∧ displayTrig c r = t := by
  rcases phase_cases phase with rfl | rfl | rfl | rfl
  · simp [phaseTrig, hnone.symm]
  · simp [phaseTrig, hnone.symm]
  · rcases backPorchTrig_cases c r with h | h <;> simp [phaseTrig, h, hnone.symm, hline.symm]
  · simp [phaseTrig]

theorem phaseTrig_eq_nextLine_iff (c : Config) (phase : BitVec 2) (r : Nat) :
    phaseTrig c phase r = .nextLine ↔ phase = 3 ∧ c.vBack - 1 ≤ r ∧ r < c.vDisplay := by
  rw [phaseTrig_eq_iff_display (by simp) (by simp), displayTrig_eq_nextLine_iff]

theorem phaseTrig_eq_frameReady_iff (c : Config) (phase : BitVec 2) (r : Nat) :
    phaseTrig c phase r = .frameReady ↔ phase = 3 ∧ r = c.vDisplay := by
  rw [phaseTrig_eq_iff_display (by simp) (by simp), displayTrig_eq_frameReady_iff]

/-! ## The move -/

/-- The line numbers fit `timing_row` (`10_state.md` R102). -/
theorem vFront_le {c : Config} (hc : c.wf = true) : c.vFront ≤ 2 ^ 16 := by
  obtain ⟨-, -, -, -, -, -, -, -, -, -, -, -, hcounters⟩ := wf_checks hc
  simp only [Config.okCounters, Bool.and_eq_true, decide_eq_true_eq] at hcounters
  obtain ⟨⟨hfront, -⟩, -⟩ := hcounters
  exact hfront

/-- The row after a line, as a number: one more, and 0 after the last (R404). -/
theorem nextRow_toNat {c : Config} (hc : c.wf = true) {r : BitVec 16} (hr : r.toNat < c.vFront) :
    (nextRow c r).toNat = if r.toNat + 1 = c.vFront then 0 else r.toNat + 1 := by
  have hfront := vFront_le hc
  simp only [nextRow]
  split
  next => rfl
  next hne => exact BitVec.toNat_add_of_lt (by simp; omega)

theorem advance_row_toNat {c : Config} (hc : c.wf = true) {t : Tseq} (hr : t.row.toNat < c.vFront) :
    (t.advance c).row.toNat =
      if t.phase = 3 then (if t.row.toNat + 1 = c.vFront then 0 else t.row.toNat + 1) else t.row.toNat := by
  simp only [Tseq.advance]
  split
  · exact nextRow_toNat hc hr
  · rfl

theorem advance_phase_toNat (c : Config) (t : Tseq) : (t.advance c).phase.toNat = (t.phase.toNat + 1) % 4 :=
  BitVec.toNat_add ..

/-- Settles O18: the word's fields are those of its phase and row, and the step pushes it and moves on. -/
theorem sequencerPushesThePhaseWord : Obligations.SequencerPushesThePhaseWord := by
  intro s hc hen hfree hrow
  have henabled : enabled .tseq s = true := by simp [enabled, tseqEnabled, full, hen, hfree]
  refine ⟨s.tseq.word s.cfg, tseqStep s, Scope.agentTurn_enabled henabled, rfl, hen, advance_phase_toNat _ _,
    advance_row_toNat hc hrow, TimingState.timingWordOk_phaseWord .., wordVs_phaseWord .., wordHs_phaseWord .., ?_⟩
  simp only [Tseq.word, wordCount_phaseWord, wordTrig_phaseWord]
  exact ⟨waitCount_phaseLength hc _, phaseTrig_eq_lineReady_iff .., phaseTrig_eq_nextLine_iff ..,
    phaseTrig_eq_frameReady_iff ..⟩

/-! ## One line of the sequence -/

theorem sequence_length (c : Config) (n : Nat) (t : Tseq) : (Safety.sequence c n t).1.length = n := by
  induction n generalizing t with
  | zero => rfl
  | succ n ih => simp [Safety.sequence, ih]

theorem sequence_add (c : Config) (m n : Nat) (t : Tseq) :
    Safety.sequence c (m + n) t =
      ((Safety.sequence c m t).1 ++ (Safety.sequence c n (Safety.sequence c m t).2).1,
        (Safety.sequence c n (Safety.sequence c m t).2).2) := by
  induction m generalizing t with
  | zero => simp [Safety.sequence]
  | succ m ih => simp [Nat.succ_add, Safety.sequence, ih]

/-- The four words of line `r`. -/
def rowWords (c : Config) (r : Nat) : List Word :=
  [phaseWord c 0 r, phaseWord c 1 r, phaseWord c 2 r, phaseWord c 3 r]

theorem sequence_row (c : Config) (en : Bool) (r : BitVec 16) :
    Safety.sequence c 4 ⟨en, 0, r⟩ = (rowWords c r.toNat, ⟨en, 0, nextRow c r⟩) := by
  simp [Safety.sequence, Tseq.advance, Tseq.word, rowWords]

theorem row_toNat {c : Config} (hc : c.wf = true) {n : Nat} (hn : n < c.vFront) : (BitVec.ofNat 16 n).toNat = n :=
  Nat.mod_eq_of_lt (hn.trans_le (vFront_le hc))

/-- The rows of a frame are numbered from 0, and the last is followed by row 0. -/
theorem nextRow_ofNat {c : Config} (hc : c.wf = true) {n : Nat} (hn : n < c.vFront) :
    nextRow c (BitVec.ofNat 16 n) = BitVec.ofNat 16 ((n + 1) % c.vFront) := by
  have hfront := vFront_le hc
  have hval := row_toNat hc hn
  apply BitVec.eq_of_toNat_eq
  rw [nextRow_toNat hc (hval.symm ▸ hn), hval, BitVec.toNat_ofNat]
  split
  next hlast => simp [hlast]
  next hne => rw [Nat.mod_eq_of_lt (a := n + 1) (by omega), Nat.mod_eq_of_lt (by omega)]

/-- The first `n` lines of a frame, in order, and where they leave the sequencer. -/
theorem sequence_rows {c : Config} (hc : c.wf = true) (en : Bool) {n : Nat} (hn : n ≤ c.vFront) :
    Safety.sequence c (4 * n) ⟨en, 0, 0⟩ =
      ((List.range n).flatMap (rowWords c), ⟨en, 0, BitVec.ofNat 16 (n % c.vFront)⟩) := by
  induction n with
  | zero => simp [Safety.sequence]
  | succ n ih =>
    have hlt : n < c.vFront := hn
    rw [Nat.mul_succ, sequence_add, ih hlt.le, Nat.mod_eq_of_lt hlt]
    simp only [sequence_row, row_toNat hc hlt, nextRow_ofNat hc hlt, List.range_succ, List.flatMap_append,
      List.flatMap_singleton]

/-! ## The triggers of a frame -/

theorem countTrig_append (t : Trig) (v w : List Word) : countTrig t (v ++ w) = countTrig t v + countTrig t w := by
  simp [countTrig]

/-- A trigger that one phase carries, on the rows where `P` holds, is once on each of those. -/
theorem countTrig_rowWords {c : Config} {t : Trig} {phase : BitVec 2} {r : Nat} {P : Prop} [Decidable P]
    (htrig : ∀ p, phaseTrig c p r = t ↔ p = phase ∧ P) : countTrig t (rowWords c r) = if P then 1 else 0 := by
  simp only [countTrig, rowWords, List.filter_cons, List.filter_nil, wordTrig_phaseWord, htrig]
  by_cases hP : P
  · rcases phase_cases phase with rfl | rfl | rfl | rfl <;> simp [hP]
  · simp [hP]

/-- The rows from `a` up to `b` among the first `n`. -/
theorem count_interval {a b n : Nat} (hb : b ≤ n) : Nat.count (fun r => a ≤ r ∧ r < b) n = b - a := by
  have hrows : {r ∈ Finset.range n | a ≤ r ∧ r < b} = Finset.Ico a b := by
    ext r
    simp only [Finset.mem_filter, Finset.mem_range, Finset.mem_Ico]
    omega
  rw [Nat.count_eq_card_filter_range, hrows, Nat.card_Ico]

/-- A trigger that one phase carries, on the rows from `a` up to `b`, is `b - a` times among the first `n` rows. -/
theorem countTrig_rows {c : Config} {t : Trig} {phase : BitVec 2} {a b n : Nat} (hb : b ≤ n)
    (htrig : ∀ p r, phaseTrig c p r = t ↔ p = phase ∧ a ≤ r ∧ r < b) :
    countTrig t ((List.range n).flatMap (rowWords c)) = b - a := by
  have hcount (m : Nat) :
      countTrig t ((List.range m).flatMap (rowWords c)) = Nat.count (fun r => a ≤ r ∧ r < b) m := by
    induction m with
    | zero => rfl
    | succ m ih =>
      rw [List.range_succ, List.flatMap_append, List.flatMap_singleton, countTrig_append, ih,
        countTrig_rowWords (htrig · m), Nat.count_succ]
  rw [hcount, count_interval hb]

/-- Settles O19: a frame is its `V_FRONT` lines, and each trigger is on the lines of one interval. -/
theorem frameHasItsTriggers : Obligations.FrameHasItsTriggers := by
  rintro c ⟨en, phase, row⟩ hc rfl rfl
  obtain ⟨-, hback, hvfp⟩ := Scope.wf_vertical hc
  have hheight : c.vDisplay = c.vBack + c.height := rfl
  have hpos : 1 ≤ c.vBack := hback
  have hdisplay : c.vDisplay + 1 ≤ c.vFront := Nat.add_le_add_left hvfp _
  have hframe := sequence_rows hc en (le_refl c.vFront)
  rw [Nat.mod_self] at hframe
  have hline := countTrig_rows (Nat.le_of_succ_le hdisplay) (phaseTrig_eq_lineReady_iff c)
  have hnext := countTrig_rows (Nat.le_of_succ_le hdisplay) (phaseTrig_eq_nextLine_iff c)
  have hready := countTrig_rows (a := c.vDisplay) hdisplay fun p r =>
    (phaseTrig_eq_frameReady_iff c p r).trans (and_congr_right' (by omega))
  refine ⟨congrArg Prod.snd hframe, sequence_length .., ?_⟩
  simp only [hframe]
  omega

end Sys2Proof.Sequencer
end

section
/-! The statements of `41_timing_generator.md`: one tick with a word (R450 to R453, R456), the delivery of its trigger
(R455), the tick that finds `TQ` empty (R454), and TGEN's start (R457). -/

namespace Sys2Proof.TimingGenerator

open Sys2Proof Sys2Proof.Machine Sys2Proof.Safety Sys2Proof.Laws Sys2Proof.TimingState

/-! ## The delivery of a trigger -/

/-- The `*_LOST` code a trigger raises when the flags stand as in `r`, as bits of `STATUS` (R455). -/
def lostMask (t : Trig) (r : Regs) : BitVec 11 :=
  match t with
  | .none => 0#11
  | .lineReady => if r.startF then Code.startLost.mask else 0#11
  | .nextLine => if r.lineF then Code.lineLost.mask else 0#11
  | .frameReady => if r.frameF then Code.frameLost.mask else 0#11

/-- Raising a code under a condition, as bits of `STATUS`. -/
theorem or_codeIf (b : Bool) (c : Code) (status : BitVec 11) :
    (status ||| if b then c.mask else 0#11) = if b then status ||| c.mask else status := by
  cases b
  · exact BitVec.or_zero
  · rfl

theorem raiseIf_status (b : Bool) (c : Code) (s : State) :
    (raiseIf b c s).regs.status = s.regs.status ||| (if b then c.mask else 0#11) := by
  rw [or_codeIf]
  cases b <;> rfl

theorem deliver_status (t : Trig) (s : State) :
    (deliver t s).regs.status = s.regs.status ||| lostMask t s.regs := by
  cases t with
  | none => exact BitVec.or_zero.symm
  | lineReady => exact raiseIf_status ..
  | nextLine => exact raiseIf_status ..
  | frameReady => exact raiseIf_status ..

/-- What a trigger does to the registers: its flag is set, and its code raised if the flag still was. -/
theorem deliver_regs (t : Trig) (s : State) :
    (deliver t s).regs = { s.regs with
      startF := s.regs.startF || decide (t = .lineReady)
      lineF := s.regs.lineF || decide (t = .nextLine)
      frameF := s.regs.frameF || decide (t = .frameReady)
      status := s.regs.status ||| lostMask t s.regs } := by
  rw [← deliver_status]
  exact congrArg State.regs (deliver_frame t s)

theorem deliver_setTgen (t : Trig) (s : State) (g : Tgen) :
    deliver t { s with tgen := g } = { deliver t s with tgen := g } := by
  have raised (b : Bool) (c : Code) : raiseIf b c { s with tgen := g } = { raiseIf b c s with tgen := g } := by
    cases b <;> rfl
  cases t <;> simp only [deliver, raised]

theorem pumpCycle_regs (b : Bool) (s : State) :
    (pumpCycle b s).regs = { s.regs with
      startF := (pumpCycle b s).regs.startF, status := (pumpCycle b s).regs.status } :=
  congrArg State.regs (pumpCycle_frame b s)

/-! ## A tick with a word -/

/-- The cycles to go as a tick counts them: those of `TG_REMAIN`, or those of the word that begins (R451). -/
def cyclesToGo (g : Tgen) (count : BitVec 16) : BitVec 17 :=
  if g.remain = 0 then BitVec.ofNat 17 (count.toNat + 3) else g.remain

theorem wordCycles_eq_ofNat (count : BitVec 16) : wordCycles count = BitVec.ofNat 17 (count.toNat + 3) := by
  rw [← wordCycles_toNat, BitVec.ofNat_toNat, BitVec.setWidth_eq]

/-- TGEN after one cycle of a word (R451 to R453). -/
theorem cycle_loadWord (g : Tgen) (w : Word) (count : BitVec 16) (hs vs : Bool) :
    (g.loadWord w count).cycle hs vs = { g with
      word := if g.remain = 0 then w else g.word, remain := cyclesToGo g count - 1, hs := hs, vs := vs } := by
  rw [cyclesToGo]
  split
  next hbegins => rw [loadWord_begin hbegins, wordCycles_eq_ofNat, Tgen.cycle]
  next hgoes => rw [loadWord_resume hgoes, Tgen.cycle]

section
variable (t : Trig) (count : BitVec 16) (hs vs : Bool) (s : State)

/-- A tick with a word, its parts apart: the pump part and the delivery do not read TGEN, so its cycle may as well
come after them; the delivery, in the last cycle only, finds the flags as the pump part left them (R450). -/
theorem wordTick_eq :
    wordTick t count hs vs s =
      emitTrace { (if cyclesToGo s.tgen count = 1
          then deliver t (pumpCycle s.regs.startF s) else pumpCycle s.regs.startF s) with
        tgen := (s.tgen.loadWord (timingWord t vs hs count) count).cycle hs vs } := by
  have hlast : ((s.tgen.loadWord (timingWord t vs hs count) count).cycle hs vs).remain = 0 ↔
      cyclesToGo s.tgen count = 1 := by
    rw [cycle_loadWord]
    exact sub_eq_zero
  simp only [wordTick, hlast, pumpCycle_setTgen]
  split
  next => rw [deliver_setTgen]
  next => rfl

theorem wordTick_pump : (wordTick t count hs vs s).pump = (pumpCycle s.regs.startF s).pump := by
  rw [wordTick_eq]
  split <;> simp

theorem wordTick_env :
    (wordTick t count hs vs s).env = { s.env with
      trace := ⟨hs, vs, (wordTick t count hs vs s).pump.pixv, (wordTick t count hs vs s).pump.pix⟩ :: s.env.trace
      ticks := s.env.ticks + 1 } := by
  rw [wordTick_eq]
  split <;> simp [emitTrace, Tgen.cycle]

/-- The registers are as the pump part leaves them, but for the trigger in the last cycle. -/
theorem wordTick_regs :
    (wordTick t count hs vs s).regs =
      if cyclesToGo s.tgen count = 1 then (deliver t (pumpCycle s.regs.startF s)).regs
      else (pumpCycle s.regs.startF s).regs := by
  rw [wordTick_eq]
  split <;> rfl

variable {s} in
theorem wordTick_regs_last (h : s.tgen.remain = 1) :
    (wordTick t count hs vs s).regs = (deliver t (pumpCycle s.regs.startF s)).regs := by
  rw [wordTick_regs, cyclesToGo, h]
  rfl

end

/-- Settles O11: each field of the state after the tick is one part's work. -/
theorem timingWordTick : Obligations.TimingWordTick := by
  intro tr count hs vs s hword before last p
  refine ⟨wordTick tr count hs vs s, exec_ofTiming .., ?tgen, wordTick_pump .., ?regs, wordTick_env .., wordTick_cfg ..,
    wordTick_tseq .., wordTick_plu .., wordTick_dma .., wordTick_producers .., fun a => ?mem⟩
  case tgen =>
    have hloaded : (if s.tgen.remain = 0 then timingWord tr vs hs count else s.tgen.word) =
        timingWord tr vs hs count := by
      split
      next => rfl
      next hgoes => exact hword hgoes
    rw [wordTick_tgen, cycle_loadWord, hloaded]
    rfl
  case regs =>
    rw [wordTick_regs]
    split
    next hlast =>
      have hl : last = true := decide_eq_true hlast
      rw [deliver_regs, pumpCycle_regs, hl]
      cases tr <;> rfl
    next hgoes =>
      have hl : last = false := decide_eq_false hgoes
      rw [pumpCycle_regs, hl]
      simp
  case mem => rw [wordTick_mem]

/-- Settles O13: in the last cycle the registers are as the delivery leaves those of the pump part. -/
theorem lostTriggersAreReported : Obligations.LostTriggersAreReported := by
  intro count hs vs s hlast p
  have runs (t : Trig) := exec_ofTiming t count hs vs s
  have hregs (t : Trig) := (wordTick_regs_last t count hs vs hlast).trans (deliver_regs t p)
  refine ⟨⟨_, runs .none, wordTick_regs_last .none count hs vs hlast⟩,
    ⟨_, runs .lineReady, (hregs .lineReady).trans ?_⟩, ⟨_, runs .nextLine, (hregs .nextLine).trans ?_⟩,
    ⟨_, runs .frameReady, (hregs .frameReady).trans ?_⟩⟩
  all_goals simp [p, lostMask, or_codeIf]

/-! ## The tick that finds `TQ` empty -/

theorem raise_comm (c d : Code) (s : State) : raise c (raise d s) = raise d (raise c s) := by
  simp only [raise, BitVec.or_assoc, BitVec.or_comm d.mask]

/-- The pump part of a tick reads no `STATUS` bit, so a code may as well be raised after it. -/
theorem pumpCycle_raise (b : Bool) (c : Code) (s : State) :
    pumpCycle b (raise c s) = raise c (pumpCycle b s) := by
  have emit (u : State) : pumpEmit (raise c u) = raise c (pumpEmit u) := by
    simp only [pumpEmit, raise_pump, raise_cfg]
    split
    next => exact raise_comm ..
    next => rfl
  have idle : pumpIdleOutput (raise c s) = raise c (pumpIdleOutput s) := rfl
  have start (u : State) : pumpStart (raise c u) = raise c (pumpStart u) := rfl
  simp only [pumpCycle, idle, start, emit, ← apply_ite (raise c), raise_pump]

theorem stallTick_eq (s : State) :
    stallTick s = emitTrace (raise .tqUnderrun (pumpCycle s.regs.startF s)) := by
  rw [stallTick, pumpCycle_raise]

theorem tickStep_stall {s : State} (hr : s.tgen.remain = 0) (hq : s.tgen.tq = []) :
    tickStep s = .next (stallTick s) := by
  simp only [tickStep, hr, hq, if_true]

/-- Settles O14: the stall is the pump part and the trace entry, with the code raised between them. -/
theorem emptyQueueStallsTheTick : Obligations.EmptyQueueStallsTheTick := by
  intro s hen hr hq
  have hturn : agentTurn .tick s = .next (stallTick s) :=
    (Scope.agentTurn_enabled (a := .tick) hen).trans (tickStep_stall hr hq)
  refine ⟨stallTick s, hturn, stallTick_tgen s, ?_⟩
  rw [stallTick_eq]
  simp [emitTrace]

/-! ## The start -/

theorem tgenStartEnabled_iff (s : State) :
    tgenStartEnabled s = true ↔
      s.regs.run = true ∧ s.tseq.en = true ∧ s.tgen.en = false ∧ s.tgen.tq.length = s.cfg.tqDepth := by
  simp only [tgenStartEnabled, full, Bool.and_eq_true, Bool.not_eq_true', decide_eq_true_eq, and_assoc]

/-- Settles O20: the turn is the step when the guard holds, and nothing otherwise. -/
theorem clockStartsWhenTheQueueIsFull : Obligations.ClockStartsWhenTheQueueIsFull := by
  intro s
  simp only [agentTurn, enabled, tgenStartEnabled_iff]
  split <;> rfl

end Sys2Proof.TimingGenerator
end

section
/-! The statements of `42_pixel_pump.md`: the pump part of a tick case by case, and the legal pump that every step
leaves. -/

namespace Sys2Proof.PixelPump

open Sys2Proof Sys2Proof.Machine Sys2Proof.Safety Sys2Proof.Laws

/-! ## The fetch and the emission -/

section
variable {c : Config} {p : Pump} {w : Word} {q : List Word}

/-- The held half word goes out first (`42_pixel_pump.md` R507). -/
theorem fetch_held (hm : c.mode = .direct) (hv : p.hv = true) :
    p.fetch c = some (Config.encodePixelWordDirect p.hi, { p with hv := false }) := by
  simp only [Pump.fetch, hm, Pump.fetchDirect, hv, if_true]

/-- With no half word held a word is popped: its low half goes out and its high half is held (R507). -/
theorem fetch_popDirect (hm : c.mode = .direct) (hv : p.hv = false) (hq : p.pf = w :: q) :
    p.fetch c = some (Config.encodePixelWordDirect (w.extractLsb' 0 16),
      { p with pf := q, hi := w.extractLsb' 16 16, hv := true }) := by
  simp [Pump.fetch, hm, Pump.fetchDirect, hv, hq]

/-- An entry of `PF` is one pixel (R506). -/
theorem fetch_popIndexed (hm : c.mode = .indexed) (hq : p.pf = w :: q) :
    p.fetch c = some (w.extractLsb' 14 18, { p with pf := q }) := by
  simp only [Pump.fetch, hm, Pump.fetchIndexed, hq, entryPix]

/-- There is no pixel when `PF` is empty and no half word is held (R508). -/
theorem fetch_empty (hq : p.pf = []) (hv : c.mode = .direct → p.hv = false) : p.fetch c = none := by
  rcases hm : c.mode with _ | _
  · simp [Pump.fetch, hm, Pump.fetchDirect, hv hm, hq]
  · simp only [Pump.fetch, hm, Pump.fetchIndexed, hq]

/-- A fetch leaves the line alone; in direct mode it holds a half word exactly when none was held, in indexed mode
it holds what was held (R506, R507). -/
theorem fetch_keeps_line {px : BitVec 18} {r : Pump} (h : p.fetch c = some (px, r)) :
    r.st = p.st ∧ r.left = p.left ∧ r.hv = (if c.mode = .direct then !p.hv else p.hv) := by
  rcases hm : c.mode with _ | _
  · rcases hv : p.hv with _ | _
    · rcases hq : p.pf with _ | ⟨w, q⟩
      · rw [fetch_empty hq fun _ => hv] at h
        cases h
      · rw [fetch_popDirect hm hv hq] at h
        cases h
        exact ⟨rfl, rfl, rfl⟩
    · rw [fetch_held hm hv] at h
      cases h
      exact ⟨rfl, rfl, rfl⟩
  · rcases hq : p.pf with _ | ⟨w, q⟩
    · rw [fetch_empty hq fun hd => by rw [hm] at hd; cases hd] at h
      cases h
    · rw [fetch_popIndexed hm hq] at h
      cases h
      exact ⟨rfl, rfl, rfl⟩

end

theorem pumpEmit_pixel {s : State} {px : BitVec 18} {p : Pump} (h : s.pump.fetch s.cfg = some (px, p)) :
    pumpEmit s = { s with pump := p.emitted px } := by
  simp only [pumpEmit, h]

theorem pumpEmit_underrun {s : State} (h : s.pump.fetch s.cfg = none) : pumpEmit s = raise .pixUnderrun s := by
  simp only [pumpEmit, h]

/-- The pixel that leaves nothing to go ends the line (R505). -/
theorem emitted_of_shift {p : Pump} (h : p.st = .shift) (px : BitVec 18) :
    p.emitted px = { p with
      pix := px, pixv := true, left := p.left - 1, st := if p.left = 1 then .waitStart else .shift } := by
  simp only [Pump.emitted, h, sub_eq_zero]

/-! ## The pump part of a tick -/

/-- A shifting pump that fetches a pixel puts it out. -/
theorem pumpCycle_pixel {s : State} {b : Bool} {px : BitVec 18} {p : Pump} (he : s.pump.en = true)
    (hs : s.pump.st = .shift) (h : (pumpIdleOutput s).pump.fetch s.cfg = some (px, p)) :
    pumpCycle b s = { s with pump := { p with
      pix := px, pixv := true, left := p.left - 1, st := if p.left = 1 then .waitStart else .shift } } := by
  obtain ⟨hst, -, -⟩ := fetch_keeps_line h
  rw [pumpCycle_shift he hs, pumpEmit_pixel h, emitted_of_shift (hst.trans hs)]
  rfl

/-- Settles O15: the waiting pump changes its outputs alone, and the fetch of the stalled one finds no pixel. -/
theorem pumpWaitsOrStalls : Obligations.PumpWaitsOrStalls := by
  intro s start
  refine ⟨fun h => ⟨Config.freePix s.env.ticks, ?idle⟩, fun he hs hq hv => ⟨Config.freePix s.env.ticks, ?stall⟩⟩
  case idle =>
    rcases h with hoff | ⟨hwait, rfl⟩
    · exact pumpCycle_off hoff
    · exact pumpCycle_wait hwait
  case stall =>
    have hnone : (pumpIdleOutput s).pump.fetch s.cfg = none := fetch_empty hq hv
    rw [pumpCycle_shift he hs, pumpEmit_underrun hnone]
    rfl

/-- Settles O17: each clause names the fetch that finds the pixel. -/
theorem pumpEmitsOnePixel : Obligations.PumpEmitsOnePixel := by
  intro s start he hs
  refine ⟨fun hm hv => ?held, fun w q hm hv hq => ?direct, fun w q hm hq => ?indexed⟩
  case held => exact pumpCycle_pixel he hs (fetch_held hm hv)
  case direct => exact pumpCycle_pixel he hs (fetch_popDirect hm hv hq)
  case indexed => exact pumpCycle_pixel he hs (fetch_popIndexed hm hq)

/-- The count of a line's pixels fits `PUMP_LEFT` (`10_state.md` R104). -/
theorem ofNat_width_toNat {c : Config} (hc : c.wf = true) : (BitVec.ofNat 16 c.width).toNat = c.width := by
  obtain ⟨-, hlt, -⟩ := wf_sizes hc
  rw [BitVec.toNat_ofNat, Nat.mod_eq_of_lt hlt]

/-- The pump that has just begun a line (R504), its outputs those of a tick with no pixel yet. -/
def begun (s : State) : State := pumpStart (pumpIdleOutput s)

/-- A line has at least four pixels, so its first is not its last. -/
theorem begun_emitted {s : State} (hc : s.cfg.wf = true) {px : BitVec 18} {p : Pump}
    (h : (begun s).pump.fetch s.cfg = some (px, p)) :
    (p.emitted px).st = .shift ∧ (p.emitted px).left.toNat = s.cfg.width - 1 := by
  obtain ⟨hst, hleft, -⟩ := fetch_keeps_line h
  obtain ⟨hmin, -⟩ := wf_sizes hc
  have hwidth := ofNat_width_toNat hc
  have hleft' : p.left = BitVec.ofNat 16 s.cfg.width := hleft
  rw [emitted_of_shift (hst.trans rfl), hleft']
  refine ⟨if_neg ?_, ?_⟩
  · bv_omega
  · simp only []
    bv_omega

/-- Settles O16: the pump that has begun the line fetches as a shifting one does. -/
theorem pumpStartsOnTheLatch : Obligations.PumpStartsOnTheLatch := by
  intro s hc he hw hv
  have hstart : pumpCycle true s = pumpEmit (begun s) := pumpCycle_start he hw
  refine ⟨fun w q hq => ?pixel, fun hq => ⟨Config.freePix s.env.ticks, ?underrun⟩⟩
  case pixel =>
    rcases hm : s.cfg.mode with _ | _
    · have hfetch := fetch_popDirect (p := (begun s).pump) hm hv hq
      obtain ⟨hst, hleft⟩ := begun_emitted hc hfetch
      rw [hstart, pumpEmit_pixel hfetch]
      exact ⟨rfl, hst, hleft, rfl, rfl, nofun, fun _ => ⟨rfl, rfl, rfl⟩⟩
    · have hfetch := fetch_popIndexed (p := (begun s).pump) hm hq
      obtain ⟨hst, hleft⟩ := begun_emitted hc hfetch
      rw [hstart, pumpEmit_pixel hfetch]
      exact ⟨rfl, hst, hleft, rfl, rfl, fun _ => ⟨rfl, hv⟩, nofun⟩
  case underrun =>
    have hnone : (begun s).pump.fetch s.cfg = none := fetch_empty hq fun _ => hv
    rw [hstart, pumpEmit_underrun hnone]
    rfl

/-! ## The pump part of a tick keeps the pump legal -/

/-- A pump forced to its entry waits with nothing left and no half word held (R511). -/
theorem pumpLegal_forced {s : State} {p : Pump} {b : Bool} (hc : s.cfg.wf = true)
    (hp : s.pump = { p.forceEntry with en := b }) : PumpLegal s := by
  rw [PumpLegal, hp]
  exact ⟨hc, Nat.zero_le _, by simp [Pump.forceEntry], by simp [Pump.forceEntry], fun _ => rfl⟩

theorem pumpIdleOutput_keeps_pumpLegal {s : State} (hs : PumpLegal s) : PumpLegal (pumpIdleOutput s) := hs

/-- A line of a direct frame has an even number of pixels, so no half word is held when it begins (R504, R507). -/
theorem pumpStart_keeps_pumpLegal {s : State} (hw : s.pump.st = .waitStart) (hs : PumpLegal s) :
    PumpLegal (pumpStart s) := by
  obtain ⟨hc, -, hshift, hdirect, hindexed⟩ := hs
  have hwidth := ofNat_width_toNat hc
  obtain ⟨hmin, heven, -⟩ := Scope.wf_geometry hc
  have hzero : s.pump.left = 0 := by simpa [hw] using hshift
  refine ⟨hc, hwidth.le, iff_of_true rfl ?_, fun hm => ?_, hindexed⟩
  · simp only [pumpStart]
    bv_omega
  · have hnone : s.pump.hv = false := by simpa [hzero] using hdirect hm
    simp only [pumpStart, hnone, hwidth, heven hm]
    decide

/-- The fetch turns the held half word and the count goes down by one, so both change their parity (R505, R507). -/
theorem pumpEmit_keeps_pumpLegal {s : State} (hshift : s.pump.st = .shift) (hs : PumpLegal s) :
    PumpLegal (pumpEmit s) := by
  rcases hf : s.pump.fetch s.cfg with _ | ⟨px, p⟩
  · rw [pumpEmit_underrun hf]
    exact hs
  · obtain ⟨hc, hle, hiff, hdirect, hindexed⟩ := hs
    obtain ⟨hst, hleft, hhv⟩ := fetch_keeps_line hf
    have hpos : s.pump.left ≠ 0 := hiff.mp hshift
    have hpos' : s.pump.left.toNat ≠ 0 := by bv_omega
    have hcount : (s.pump.left - 1).toNat = s.pump.left.toNat - 1 := by bv_omega
    rw [pumpEmit_pixel hf, emitted_of_shift (hst.trans hshift), hleft, PumpLegal]
    simp only [hcount]
    refine ⟨hc, by omega, ?_, fun hm => ?_, fun hm => ?_⟩
    · rw [Ne, sub_eq_zero]
      split
      next hlast => simp [hlast]
      next hmore => simpa using hmore
    · rw [hhv, if_pos hm, Bool.not_eq_true', ← Bool.not_eq_true, hdirect hm]
      omega
    · rw [hhv, if_neg (by simp [hm]), hindexed hm]

theorem pumpCycle_keeps_pumpLegal (b : Bool) {s : State} (hs : PumpLegal s) : PumpLegal (pumpCycle b s) := by
  have hidle := pumpIdleOutput_keeps_pumpLegal hs
  rcases pumpCycle_cases b s with ⟨h, -⟩ | ⟨h, -, hw, -⟩ | ⟨h, -, hshift⟩ <;> rw [h]
  · exact hidle
  · exact pumpEmit_keeps_pumpLegal rfl (pumpStart_keeps_pumpLegal hw hidle)
  · exact pumpEmit_keeps_pumpLegal hshift hidle

/-! ## The steps that leave the engines alone -/

/-- The engines are as they were: of TSEQ and TGEN nothing moved, of the pump and the PLU only the FIFOs, and the
registers `INIT` and `TEARDOWN` enable them with still stand (`46_host_commands.md` R810, R815). -/
structure EnginesKept (s t : State) : Prop where
  cfg : t.cfg = s.cfg
  tseq : t.tseq = s.tseq
  tgen : t.tgen = s.tgen
  pump : t.pump = { s.pump with pf := t.pump.pf }
  plu : t.plu = { s.plu with pli := t.plu.pli, plo := t.plu.plo }
  run : t.regs.run = s.regs.run
  lineE : t.regs.lineE = s.regs.lineE
  frameE : t.regs.frameE = s.regs.frameE

theorem EnginesKept.refl (s : State) : EnginesKept s s := by constructor <;> rfl

theorem EnginesKept.trans {s u t : State} (h : EnginesKept s u) (k : EnginesKept u t) : EnginesKept s t where
  cfg := k.cfg.trans h.cfg
  tseq := k.tseq.trans h.tseq
  tgen := k.tgen.trans h.tgen
  pump := by rw [k.pump, h.pump]
  plu := by rw [k.plu, h.plu]
  run := k.run.trans h.run
  lineE := k.lineE.trans h.lineE
  frameE := k.frameE.trans h.frameE

/-- `PF` and the other units are no part of the pump's legality. -/
theorem EnginesKept.pumpLegal {s t : State} (h : EnginesKept s t) (hs : PumpLegal s) : PumpLegal t := by
  rwa [PumpLegal, h.cfg, h.pump]

theorem raise_enginesKept (c : Code) (s : State) : EnginesKept s (raise c s) := by constructor <;> rfl

theorem setChan_enginesKept (s : State) (n : ChanId) (x : Channel) : EnginesKept s (s.setChan n x) := by
  constructor <;> rfl

theorem raiseIf_enginesKept (b : Bool) (c : Code) (s : State) : EnginesKept s (raiseIf b c s) := by
  cases b
  case false => exact .refl s
  case true => exact raise_enginesKept c s

theorem setCmd_enginesKept (s : State) (c : Cmd) : EnginesKept s (s.setCmd c) := by
  constructor <;> simp

theorem trigger_enginesKept {n : ChanId} {v : Word} {s t : State} (h : trigger n v s = .ok t) :
    EnginesKept s t := by
  obtain ⟨rfl, -⟩ := trigger_ok h
  exact (raiseIf_enginesKept _ _ s).trans (setChan_enginesKept _ n _)

theorem startChannels_enginesKept {s t : State} (h : startChannels s = .ok t) : EnginesKept s t := by
  simp only [startChannels] at h
  split at h
  · cases h
  · rename_i hA
    have startA := trigger_enginesKept hA
    split at h
    · cases h
      exact startA
    · exact startA.trans (trigger_enginesKept h)

/-! ### The DMA channels -/

theorem dmaLoad_enginesKept (s : State) (a : Word) : EnginesKept s (dmaLoad s a).2 := by
  have pop : EnginesKept s (popPlo s).2 := by
    unfold popPlo
    split
    · exact raise_enginesKept _ s
    · constructor <;> rfl
  unfold dmaLoad
  split
  · exact raise_enginesKept _ s
  · split
    · exact .refl s
    · split
      · exact pop
      · exact .refl s
    · exact .refl s
    · exact raise_enginesKept _ s

theorem portStore_enginesKept (s : State) (off : Nat) (v : Word) : EnginesKept s (portStore s off v) := by
  have pf : EnginesKept s (pushPf s v) := by
    unfold pushPf
    split
    · exact raise_enginesKept _ s
    · constructor <;> rfl
  have pli : EnginesKept s (pushPli s v) := by
    unfold pushPli
    split
    · exact raise_enginesKept _ s
    · constructor <;> rfl
  unfold portStore
  split_ifs
  · exact pf
  · exact pli
  · exact .refl s
  · exact raise_enginesKept _ s

theorem dmaStore_enginesKept {s t : State} {a v : Word} (h : dmaStore s a v = .ok t) : EnginesKept s t := by
  rcases dmaStore_ok h with ⟨-, rfl⟩ | ⟨off, -, rfl⟩ | ⟨off, -, -, -, ht⟩ | rfl
  · constructor <;> rfl
  · exact portStore_enginesKept s off v
  · exact trigger_enginesKept ht
  · exact raise_enginesKept _ s

theorem dmaCount_enginesKept {n : ChanId} {s t : State} (h : dmaCount n s = .ok t) : EnginesKept s t := by
  have complete : ∀ u, dmaComplete n u = .ok t → EnginesKept u t := by
    intro u hu
    simp only [dmaComplete] at hu
    split at hu
    · cases hu
    · split at hu
      · cases hu
        exact setChan_enginesKept u n _
      · exact (setChan_enginesKept u n _).trans (trigger_enginesKept hu)
  simp only [dmaCount] at h
  split at h
  · exact (setChan_enginesKept s n _).trans (complete _ h)
  · cases h
    exact setChan_enginesKept s n _

theorem dmaStep_enginesKept {n : ChanId} {s t : State} (h : dmaStep n s = .ok t) : EnginesKept s t := by
  simp only [dmaStep] at h
  split at h
  · obtain ⟨u, hstore, hcount⟩ := dmaTransfer_ok h
    exact ((dmaLoad_enginesKept s _).trans (dmaStore_enginesKept hstore)).trans (dmaCount_enginesKept hcount)
  · cases h

/-! ### The producers -/

theorem producerStore_enginesKept {s t : State} {a : Word} {z : Size} {v : Word}
    (h : producerStore s a z v = .ok t) : EnginesKept s t := by
  obtain ⟨-, -, rfl⟩ := producerStore_ok h
  constructor <;> rfl

theorem copyPixel_enginesKept {s t : State} {src dest : Word} {layers o : Nat}
    (h : copyPixel s src layers dest o = .ok t) : EnginesKept s t := by
  obtain ⟨v, -, rfl⟩ := copyPixel_ok h
  constructor <;> rfl

theorem thenCmd_enginesKept {s t : State} {r : Except Refusal State} {c : Cmd} (h : thenCmd r c = .ok t)
    (hr : ∀ u, r = .ok u → EnginesKept s u) : EnginesKept s t := by
  cases r with
  | error e => cases h
  | ok u =>
    cases h
    exact (hr u rfl).trans (setCmd_enginesKept u c)

theorem cmdStep_enginesKept {c : Cmd} {s t : State} (h : cmdStep c s = .ok t) : EnginesKept s t := by
  cases c with
  | idle => cases h; exact .refl s
  | waitVsync => cases h; exact setCmd_enginesKept s _
  | uRead src layers dest cur =>
    simp only [cmdStep, stepURead] at h
    split at h <;> (cases h; exact setCmd_enginesKept s _)
  | uCopy src layers dest cur re => exact thenCmd_enginesKept h fun u => copyPixel_enginesKept
  | uiWait src layers pal => cases h; exact setCmd_enginesKept s _
  | uiPal src layers pal dest i =>
    simp only [cmdStep, stepUiPal] at h
    split at h
    · cases h
    · exact thenCmd_enginesKept h fun u => producerStore_enginesKept
  | uiCopy src layers dest o => exact thenCmd_enginesKept h fun u => copyPixel_enginesKept
  | pCopy src dest x y w h' yy xx =>
    simp only [cmdStep, stepPCopy] at h
    split at h
    · cases h
    · exact thenCmd_enginesKept h fun u => producerStore_enginesKept

/-- The two commands that wait for the frame set `VSWAIT` first. -/
theorem setWait_enginesKept (s : State) (c : Cmd) :
    EnginesKept s (State.setCmd { s with regs := { s.regs with vsWait := true } } c) :=
  have wait : EnginesKept s { s with regs := { s.regs with vsWait := true } } := by constructor <;> rfl
  wait.trans (setCmd_enginesKept _ c)

theorem execSetFramebuffer_enginesKept {b : Word} {s t : State} (h : execSetFramebuffer b s = .next t) :
    EnginesKept s t := by
  simp only [execSetFramebuffer] at h
  split at h <;> (cases h; constructor <;> rfl)

theorem execSetPalette_enginesKept {i c : Word} {s t : State} (h : execSetPalette i c s = .next t) :
    EnginesKept s t := by
  simp only [execSetPalette] at h
  split_ifs at h
  · cases h
    exact raise_enginesKept _ s
  · cases h
    exact raise_enginesKept _ s
  · exact producerStore_enginesKept (outcomeOf_next h)

theorem execSetBacklight_enginesKept {b : Word} {s t : State} (h : execSetBacklight b s = .next t) :
    EnginesKept s t := by
  simp only [execSetBacklight] at h
  split at h <;> (cases h; constructor <;> rfl)

theorem execUpdate_enginesKept {src layers pal : Word} {s t : State} (h : execUpdate src layers pal s = .next t) :
    EnginesKept s t := by
  simp only [execUpdate] at h
  split at h
  · cases h
    exact raise_enginesKept _ s
  · split at h
    · cases h
      exact setCmd_enginesKept s _
    · cases h
      exact setWait_enginesKept s _

theorem execPartialUpdate_enginesKept {src layers : Word} {x y w n : BitVec 16} {s t : State}
    (h : execPartialUpdate src layers x y w n s = .next t) : EnginesKept s t := by
  simp only [execPartialUpdate] at h
  split_ifs at h
  iterate 3
    · cases h
      exact raise_enginesKept _ s
  · cases h
    exact .refl s
  · cases h
    exact setCmd_enginesKept s _

/-! ## The steps that force the pump to its entry -/

@[simp] theorem frameQuiesce_pump (s : State) :
    (frameQuiesce s).pump = { s.pump.forceEntry with en := true } := by
  unfold frameQuiesce
  simp only []
  split <;> rfl

/-- A frame transition forces the pump to its entry before it starts the channels (`45_dispatcher.md` R710). -/
theorem frameTransition_pumpLegal {s t : State} (h : frameTransition s = .ok t) (hc : s.cfg.wf = true) :
    PumpLegal t := by
  simp only [frameTransition] at h
  split at h
  · cases h
  · rename_i u hstart
    cases h
    have hu : PumpLegal u := (startChannels_enginesKept hstart).pumpLegal
      (pumpLegal_forced (b := true) (by simpa using hc) (frameQuiesce_pump _))
    exact hu

theorem dispStep_keeps_pumpLegal {s t : State} (h : dispStep s = .ok t) (hs : PumpLegal s) : PumpLegal t := by
  simp only [dispStep] at h
  split at h
  · obtain ⟨hc, -⟩ := hs
    exact frameTransition_pumpLegal h hc
  · cases h
    exact hs

theorem initBlock_pumpLegal {s t : State} (h : initBlock s = .ok t) (hc : s.cfg.wf = true) : PumpLegal t := by
  simp only [initBlock] at h
  split at h
  · cases h
  · rename_i u hstart
    cases h
    have hu : PumpLegal u := (startChannels_enginesKept hstart).pumpLegal (pumpLegal_forced hc rfl)
    exact hu

theorem execInit_keeps_pumpLegal {s t : State} (h : execInit s = .next t) (hs : PumpLegal s) : PumpLegal t := by
  simp only [execInit] at h
  split at h
  · cases h
    exact hs
  · split at h
    · cases h
    · rename_i u hinit
      cases h
      split
      · obtain ⟨hc, -⟩ := hs
        exact initBlock_pumpLegal hinit hc
      · exact hs

theorem execTeardown_pumpLegal {s t : State} (h : execTeardown s = .next t) (hc : s.cfg.wf = true) :
    PumpLegal t := by
  cases h
  exact pumpLegal_forced hc rfl

/-! ## The step keeps the pump legal -/

theorem wordTick_keeps_pumpLegal {s : State} (tr : Trig) (count : BitVec 16) (hs vs : Bool) (h : PumpLegal s) :
    PumpLegal (wordTick tr count hs vs s) := by
  have hcycle := pumpCycle_keeps_pumpLegal s.regs.startF h
  rw [PumpLegal, pumpCycle_cfg] at hcycle
  rwa [PumpLegal, wordTick_cfg, TimingGenerator.wordTick_pump]

theorem exec_keeps_pumpLegal {i : Instr} {s t : State} (h : exec i s = .next t) (hs : PumpLegal s) :
    PumpLegal t := by
  cases i with
  | twNone count hs' vs => cases h; exact wordTick_keeps_pumpLegal _ _ _ _ hs
  | twLineReady count hs' vs => cases h; exact wordTick_keeps_pumpLegal _ _ _ _ hs
  | twNextLine count hs' vs => cases h; exact wordTick_keeps_pumpLegal _ _ _ _ hs
  | twFrameReady count hs' vs => cases h; exact wordTick_keeps_pumpLegal _ _ _ _ hs
  | init => exact execInit_keeps_pumpLegal h hs
  | teardown =>
    obtain ⟨hc, -⟩ := hs
    exact execTeardown_pumpLegal h hc
  | setFramebuffer base => exact (execSetFramebuffer_enginesKept h).pumpLegal hs
  | waitVsync => cases h; exact (setWait_enginesKept s _).pumpLegal hs
  | setPalette index colour => exact (execSetPalette_enginesKept h).pumpLegal hs
  | setBacklight brightness => exact (execSetBacklight_enginesKept h).pumpLegal hs
  | update src layers pal => exact (execUpdate_enginesKept h).pumpLegal hs
  | partialUpdate src layers x y w h' => exact (execPartialUpdate_enginesKept h).pumpLegal hs

theorem issue_keeps_pumpLegal {r : Request} {p : Producer} {s t : State} (h : issue r p s = .next t)
    (hs : PumpLegal s) : PumpLegal t := by
  cases r with
  | command c =>
    simp only [issue] at h
    split at h
    · exact exec_keeps_pumpLegal h hs
    · cases h
      exact hs
  | load a z =>
    simp only [issue] at h
    split at h
    · cases h
    · cases h
      exact hs
  | store a z v => exact (producerStore_enginesKept (outcomeOf_next h)).pumpLegal hs

theorem producerStep_keeps_pumpLegal {n : Nat} {s t : State} (h : producerStep n s = .next t)
    (hs : PumpLegal s) : PumpLegal t := by
  rcases producerStep_next h with rfl | ⟨p, r, q, -, -, -, hissue⟩ | ⟨p, -, -, hcmd⟩
  · exact hs
  · exact issue_keeps_pumpLegal hissue hs
  · exact (cmdStep_enginesKept hcmd).pumpLegal hs

theorem tickStep_keeps_pumpLegal {s t : State} (h : tickStep s = .next t) (hs : PumpLegal s) : PumpLegal t := by
  rcases tickStep_next h with ⟨-, -, rfl⟩ | ⟨w, q, -, -, -, rfl⟩ | ⟨-, -, rfl⟩
  · exact pumpCycle_keeps_pumpLegal s.regs.startF (s := raise .tqUnderrun s) hs
  · exact wordTick_keeps_pumpLegal (s := { s with tgen := { s.tgen with tq := q } }) _ _ _ _ hs
  · exact wordTick_keeps_pumpLegal _ _ _ _ hs

theorem runAgent_keeps_pumpLegal {a : Agent} {s t : State} (h : runAgent a s = .next t) (hs : PumpLegal s) :
    PumpLegal t := by
  cases a with
  | tseq => cases h; exact hs
  | tgenStart => cases h; exact hs
  | tick => exact tickStep_keeps_pumpLegal h hs
  | plu => cases h; exact hs
  | dma n => exact (dmaStep_enginesKept (outcomeOf_next h)).pumpLegal hs
  | disp => exact dispStep_keeps_pumpLegal (outcomeOf_next h) hs
  | producer n => exact producerStep_keeps_pumpLegal h hs

/-- Settles O53: a pixel put out changes the parity of what is left and of what is held together, a line begins with
an even count and nothing held, and whoever else writes the pump's line forces it to rest. -/
theorem stepKeepsPumpLegal : Obligations.StepKeepsPumpLegal := by
  intro s t hs h
  rcases SharedState.step_runs h with rfl | ⟨-, hrun⟩
  · exact hs
  · exact runAgent_keeps_pumpLegal (s := takeTurn s) hrun hs

end Sys2Proof.PixelPump
end

section
/-! The statements of `43_palette_lookup.md`: the load and the lookup of a PLU step, the order of a word's four
results, and the layout of a palette entry. -/

namespace Sys2Proof.PaletteLookup

open Sys2Proof Sys2Proof.Machine Sys2Proof.Safety Sys2Proof.Laws

/-! ## The layout of a palette entry -/

/-- R, G and B at bits 27, 21 and 15, and a copy of bit 27 at bit 14. -/
theorem encPal6_toNat (r g b : BitVec 6) :
    (encPal6 r g b).toNat =
      (r.toNat / 2) * 2 ^ 27 + g.toNat * 2 ^ 21 + b.toNat * 2 ^ 15 + (r.toNat / 2 % 2) * 2 ^ 14 := by
  simp only [encPal6, StateRules.toNat_append_add, BitVec.extractLsb'_toNat, Nat.shiftRight_eq_div_pow,
    BitVec.toNat_ofNat, Nat.zero_mod]
  omega

/-- The 8-bit encoder drops the two low bits of every channel (R561). -/
theorem encPal8_eq_encPal6 (r g b : BitVec 8) :
    encPal8 r g b = encPal6 (r.extractLsb' 2 6) (g.extractLsb' 2 6) (b.extractLsb' 2 6) := by
  have hred : r.extractLsb' 3 5 = (r.extractLsb' 2 6).extractLsb' 1 5 := by
    apply BitVec.eq_of_toNat_eq
    simp only [BitVec.extractLsb'_toNat, Nat.shiftRight_eq_div_pow]
    omega
  rw [encPal8, encPal6, hred]

theorem ofNat_quarter (x : BitVec 8) : BitVec.ofNat 6 (x.toNat / 4) = x.extractLsb' 2 6 := by
  rw [BitVec.extractLsb', Nat.shiftRight_eq_div_pow]

/-- Settles O23: an 8-bit colour's entry is the 6-bit encoder's of the quarters, whose layout is known. -/
theorem paletteEntryLayout : Obligations.PaletteEntryLayout := by
  intro r g b
  rw [encPal8_eq_encPal6, ← ofNat_quarter, ← ofNat_quarter, ← ofNat_quarter]
  refine ⟨?_, rfl⟩
  have hr := r.isLt
  have hg := g.isLt
  have hb := b.isLt
  simp only [encPal6_toNat, BitVec.toNat_ofNat]
  omega

/-! ## The addresses a word's indices stand for -/

theorem packedIndex_toNat (w : Word) (k : Nat) : (packedIndex w k).toNat = w.toNat / 2 ^ (8 * k) % 256 := by
  rw [packedIndex, BitVec.extractLsb'_toNat, Nat.shiftRight_eq_div_pow]

/-- With `4 - k` indices left the next one is index `k` (R553). -/
theorem nextAddr_of_left {p : Plu} {k : Nat} (c : Config) (hk : k < 4) (hn : p.n.toNat = 4 - k) :
    p.nextAddr c = paletteAddr c (packedIndex p.sr k).toNat := by
  rw [Plu.nextAddr, hn, Nat.sub_sub_self hk.le]

/-! ## The load and the lookup -/

section
variable {s : State} (hmode : s.cfg.mode = .indexed) (hen : s.plu.en = true)
include hmode hen

/-- A load takes the oldest word of `PLI` (R552). -/
theorem agentTurn_plu_load {w : Word} {q : List Word} (hn : s.plu.n = 0) (hpli : s.plu.pli = w :: q) :
    agentTurn .plu s = .next { s with plu := { s.plu with pli := q, sr := w, n := 4 } } := by
  have henabled : enabled .plu s = true := by
    simp [enabled, pluEnabled, pluLoadEnabled, hmode, hen, hn, hpli]
  have hload : s.plu.load = { s.plu with pli := q, sr := w, n := 4 } := by rw [Plu.load, hpli]
  rw [Scope.agentTurn_enabled henabled, runAgent, pluStep, if_pos hn, hload]

/-- A lookup with `4 - k` indices left and room in `PLO` pushes the entry address of index `k` (R553). -/
theorem agentTurn_plu_lookup {k : Nat} (hk : k < 4) (hn : s.plu.n.toNat = 4 - k)
    (hroom : s.plu.plo.length ≠ s.cfg.ploDepth) :
    agentTurn .plu s = .next { s with plu := { s.plu with
      plo := s.plu.plo ++ [paletteAddr s.cfg (packedIndex s.plu.sr k).toNat], n := s.plu.n - 1 } } := by
  have hleft : s.plu.n ≠ 0 := by bv_omega
  have henabled : enabled .plu s = true := by
    simp only [enabled, pluEnabled, pluLookupEnabled, full, hmode, hen, hleft, hroom, ne_eq, not_false_eq_true,
      decide_true, decide_false, Bool.not_false, Bool.and_true, Bool.or_true]
  rw [Scope.agentTurn_enabled henabled, runAgent, pluStep, if_neg hleft, Plu.lookup, push,
    nextAddr_of_left s.cfg hk hn]

end

/-- Settles O21: R160's address of an entry is the base plus four times its index. -/
theorem paletteLoadAndLookup : Obligations.PaletteLoadAndLookup := by
  intro s hmode hen
  exact ⟨fun _ _ hn hpli => agentTurn_plu_load hmode hen hn hpli,
    fun _ hk hn hroom => agentTurn_plu_lookup hmode hen hk hn hroom⟩

/-! ## The order of a word's results -/

/-- The entry addresses of the first `k` indices of `w`, in pixel order. -/
def entryAddrs (c : Config) (w : Word) (k : Nat) : List Word :=
  (List.range k).map fun j => paletteAddr c (packedIndex w j).toNat

theorem entryAddrs_succ (c : Config) (w : Word) (k : Nat) :
    entryAddrs c w (k + 1) = entryAddrs c w k ++ [paletteAddr c (packedIndex w k).toNat] := by
  simp [entryAddrs, List.range_succ]

@[simp] theorem entryAddrs_length (c : Config) (w : Word) (k : Nat) : (entryAddrs c w k).length = k := by
  simp [entryAddrs]

theorem entryAddrs_four (c : Config) (w : Word) :
    entryAddrs c w 4 =
      [paletteAddr c (w.toNat % 256), paletteAddr c (w.toNat / 2 ^ 8 % 256),
        paletteAddr c (w.toNat / 2 ^ 16 % 256), paletteAddr c (w.toNat / 2 ^ 24)] := by
  have htop : w.toNat / 2 ^ 24 % 256 = w.toNat / 2 ^ 24 := Nat.mod_eq_of_lt (by omega)
  rw [← htop]
  simp [entryAddrs, List.range_succ, packedIndex_toNat]

/-- `s` after the load of `w`, with `q` left in `PLI`, and `k` of the lookups of `w`. -/
def lookedUp (s : State) (w : Word) (q : List Word) (k : Nat) : State :=
  { s with plu := { s.plu with
    pli := q, sr := w, n := 4 - BitVec.ofNat 3 k, plo := s.plu.plo ++ entryAddrs s.cfg w k } }

/-- The load is the state with none of the lookups done. -/
theorem agentTurn_load_lookedUp {s : State} {w : Word} {q : List Word} (hmode : s.cfg.mode = .indexed)
    (hen : s.plu.en = true) (hn : s.plu.n = 0) (hpli : s.plu.pli = w :: q) :
    agentTurn .plu s = .next (lookedUp s w q 0) := by
  rw [agentTurn_plu_load hmode hen hn hpli]
  simp [lookedUp, entryAddrs]

/-- One lookup more. -/
theorem agentTurn_lookedUp {s : State} (w : Word) (q : List Word) {k : Nat} (hmode : s.cfg.mode = .indexed)
    (hen : s.plu.en = true) (hroom : s.plu.plo.length + 4 ≤ s.cfg.ploDepth) (hk : k < 4) :
    agentTurn .plu (lookedUp s w q k) = .next (lookedUp s w q (k + 1)) := by
  have hleft : (lookedUp s w q k).plu.n.toNat = 4 - k := by
    simp only [lookedUp]
    bv_omega
  have hfree : (lookedUp s w q k).plu.plo.length ≠ (lookedUp s w q k).cfg.ploDepth := by
    simp only [lookedUp, List.length_append, entryAddrs_length]
    omega
  have hcount : (4 : BitVec 3) - BitVec.ofNat 3 k - 1 = 4 - BitVec.ofNat 3 (k + 1) := by bv_omega
  rw [agentTurn_plu_lookup (s := lookedUp s w q k) hmode hen hk hleft hfree]
  simp only [lookedUp, hcount, entryAddrs_succ, List.append_assoc]

/-- Settles O22: the load, then the four lookups, each behind what `PLO` held. -/
theorem paletteKeepsPixelOrder : Obligations.PaletteKeepsPixelOrder := by
  intro s w q hmode hen hn hpli hroom
  have lookup : ∀ k < 4, agentTurn .plu (lookedUp s w q k) = .next (lookedUp s w q (k + 1)) :=
    fun k => agentTurn_lookedUp w q hmode hen hroom
  refine ⟨_, _, _, _, lookedUp s w q 4, agentTurn_load_lookedUp hmode hen hn hpli, lookup 0 (by decide),
    lookup 1 (by decide), lookup 2 (by decide), lookup 3 (by decide), rfl, rfl, ?_⟩
  rw [← entryAddrs_four]
  rfl

end Sys2Proof.PaletteLookup
end

section
/-! The statements of `44_dma_chain.md`: what a trigger and an abort do (R610, R615), what each channel's transfer
does in a legal chain (R612, R614, R640 to R651), and that every step keeps the chain legal. -/

namespace Sys2Proof.DmaChain

open Sys2Proof Sys2Proof.Machine Sys2Proof.Safety Sys2Proof.Laws

/-! ## Triggers and aborts -/

theorem raiseIf_eq (b : Bool) (c : Code) (s : State) :
    raiseIf b c s =
      { s with regs := if b then { s.regs with status := s.regs.status ||| c.mask } else s.regs } := by
  cases b <;> rfl

/-- Settles O24: R610's cases are those of `trigger`, and a channel's update leaves the others. -/
theorem triggerAndAbort : Obligations.TriggerAndAbort := by
  intro n v s
  refine ⟨fun hidle => ?_, fun hv hen hcount => ?_, fun hv hen hcount => ?_, rfl,
    fun m y hm => ⟨get_set_ne _ _ hm, get_set_self _ _ _⟩⟩
  case refine_1 =>
    simp only [trigger, if_pos hidle, raiseIf_eq]
    rfl
  all_goals
    have hstart : ¬(v = 0 ∨ (s.chan n).ctrl.en = false) := not_or.mpr ⟨hv, by simp [hen]⟩
  · simp only [trigger, if_neg hstart, if_neg hcount, raiseIf_eq]
    rfl
  · simp only [trigger, if_neg hstart, if_pos hcount]

/-- A channel after a trigger with `v` while it was idle, enabled and with transfers to make (R610). -/
def triggered (x : Channel) (v : Word) : Channel :=
  { x with
    readAddr := v
    ctrl := { x.ctrl with busy := decide (v ≠ 0) }
    remain := if v = 0 then 0 else x.transCount }

theorem triggered_zero (x : Channel) : triggered x 0 = { x with readAddr := 0 }.idle := rfl

theorem triggered_of_ne (x : Channel) {v : Word} (hv : v ≠ 0) : triggered x v = x.started v := by
  simp only [triggered, Channel.started, if_neg hv, decide_eq_true hv]

theorem triggered_of_transCount {x : Channel} {k : Word} (v : Word) (h : x.transCount = k) :
    triggered x v = { x with
      readAddr := v
      ctrl := { x.ctrl with busy := decide (v ≠ 0) }
      remain := if v = 0 then 0 else k } := by
  subst h
  rfl

theorem started_of_transCount {x : Channel} {k : Word} (v : Word) (h : x.transCount = k) :
    x.started v = { x with readAddr := v, ctrl := { x.ctrl with busy := true }, remain := k } := by
  subst h
  rfl

theorem trigger_of_idle {n : ChanId} (v : Word) {s : State} (hb : (s.chan n).ctrl.busy = false)
    (he : (s.chan n).ctrl.en = true) (ht : (s.chan n).transCount ≠ 0) :
    trigger n v s = .ok (s.setChan n (triggered (s.chan n) v)) := by
  by_cases hv : v = 0
  · rw [hv, triggered_zero, trigger_null hb]
  · rw [triggered_of_ne _ hv, trigger_start hb he hv ht]

theorem runLegal_idle (x : Channel) : RunLegal x.idle := by
  simp [RunLegal, Channel.idle]

theorem idle_of_rest {x : Channel} (h : RunLegal x) (hb : x.ctrl.busy = false) : x.idle = x := by
  have hremain : x.remain = 0 := by
    by_contra hne
    rw [h.1.2 hne] at hb
    cases hb
  rw [Channel.idle, ← hb, ← hremain]

theorem runLegal_started {x : Channel} (v : Word) (he : x.ctrl.en = true) (ht : x.transCount ≠ 0) :
    RunLegal (x.started v) :=
  ⟨iff_of_true rfl ht, fun _ => he⟩

theorem runLegal_one {x : Channel} (he : x.ctrl.en = true) :
    RunLegal { x with ctrl := { x.ctrl with busy := true }, remain := 1 } :=
  ⟨iff_of_true rfl (show (1 : Word) ≠ 0 by decide), fun _ => he⟩

theorem runLegal_triggered {x : Channel} (v : Word) (he : x.ctrl.en = true) (ht : x.transCount ≠ 0) :
    RunLegal (triggered x v) := by
  by_cases hv : v = 0
  · rw [hv, triggered_zero]
    exact runLegal_idle _
  · rw [triggered_of_ne x hv]
    exact runLegal_started v he ht

/-! ## The programs `INIT` writes -/

theorem programChannels_indexed {c : Config} (hm : c.mode = .indexed) :
    programChannels c = ⟨programA c, programB c, programC c, programD c⟩ := by
  simp only [programChannels, hm]

theorem lineWords_toNat {c : Config} (hc : c.wf = true) :
    (BitVec.ofNat 32 c.lineWords).toNat = c.lineWords ∧ c.lineWords ≠ 0 := by
  obtain ⟨-, hwidth, -, -, -, hstride, -, hpos, -⟩ := wf_sizes hc
  have hle : c.lineWords ≤ c.width := by
    simp only [Config.lineWords]
    split <;> omega
  refine ⟨?_, by omega⟩
  rw [BitVec.toNat_ofNat]
  omega

/-- Every run that a channel of the mode starts has transfers to make (R610). -/
theorem program_transCount_ne_zero {c : Config} (hc : c.wf = true) {n : ChanId} (hn : c.hasChan n = true) :
    ((programChannels c).get n).transCount ≠ 0 := by
  cases n with
  | a =>
    obtain ⟨hwords, hne⟩ := lineWords_toNat hc
    intro h
    rw [show BitVec.ofNat 32 c.lineWords = 0 from h] at hwords
    exact hne hwords.symm
  | b => exact show (1 : Word) ≠ 0 by decide
  | c =>
    rw [programChannels_indexed (of_decide_eq_true hn)]
    exact show (1 : Word) ≠ 0 by decide
  | d =>
    rw [programChannels_indexed (of_decide_eq_true hn)]
    exact show (1 : Word) ≠ 0 by decide

/-- The programs hold no reserved value (`10_state.md` R151). -/
theorem program_ctrlOk {c : Config} {n : ChanId} (hn : c.hasChan n = true) :
    ctrlOk c ((programChannels c).get n).ctrl = true := by
  cases n with
  | a =>
    cases hm : c.mode <;>
      simp [programChannels, Channels.get, programA, hm, ctrlOk, paceOk, chainOk, chanOf, Config.hasChan]
  | b =>
    cases hm : c.mode <;>
      simp [programChannels, Channels.get, programB, hm, ctrlOk, paceOk, chainOk, chanOf, Config.hasChan]
  | c =>
    have hm : c.mode = .indexed := of_decide_eq_true hn
    rw [programChannels_indexed hm]
    simp [Channels.get, programC, hm, ctrlOk, paceOk, chainOk, chanOf, Config.hasChan]
  | d =>
    have hm : c.mode = .indexed := of_decide_eq_true hn
    rw [programChannels_indexed hm]
    simp [Channels.get, programD, hm, ctrlOk, paceOk, chainOk, chanOf, Config.hasChan]

/-- The channel that takes over when a run of `n` ends: `n` itself where no run follows (R614). -/
def successor : ChanId → ChanId
  | .a => .b
  | .b => .b
  | .c => .c
  | .d => .c

/-- Only A steps its read address, and no channel its write address (R640, R650). -/
theorem program_ctrl {c : Config} {n : ChanId} (hn : c.hasChan n = true) :
    chanOf ((programChannels c).get n).ctrl.chainTo = some (successor n) ∧
      ((programChannels c).get n).ctrl.incrRead = decide (n = .a) ∧
      ((programChannels c).get n).ctrl.incrWrite = false := by
  cases n with
  | a => cases hm : c.mode <;> simp [programChannels, Channels.get, programA, hm, chanOf, successor]
  | b => exact ⟨rfl, rfl, rfl⟩
  | c =>
    rw [programChannels_indexed (of_decide_eq_true hn)]
    exact ⟨rfl, rfl, rfl⟩
  | d =>
    rw [programChannels_indexed (of_decide_eq_true hn)]
    exact ⟨rfl, rfl, rfl⟩

/-! ## The addresses they use -/

theorem addr_ne_zero {b : Word} {k : Nat} (hb : b.toNat % 256 = 0) (h4 : k % 4 = 0) (hk : 0 < k ∧ k < 0x100) :
    offset b k ≠ 0 := by
  intro h
  have haddr : (offset b k).toNat = b.toNat + k := (StateRules.window_address hb h4 hk.2).1
  rw [h] at haddr
  simp at haddr
  omega

theorem addrLinePtr_ne_zero {c : Config} (hc : c.wf = true) : addrLinePtr c ≠ 0 := by
  obtain ⟨-, hbase, -⟩ := wf_map hc
  exact addr_ne_zero hbase (by decide) (by decide)

theorem addrPluOutf_ne_zero {c : Config} (hc : c.wf = true) : addrPluOutf c ≠ 0 := by
  obtain ⟨-, hbase, -⟩ := wf_map hc
  exact addr_ne_zero hbase (by decide) (by decide)

theorem regWin_toNat {c : Config} (hc : c.wf = true) {k : Nat} (h4 : k % 4 = 0) (hk : k < 0x100) :
    (offset c.regBase k).toNat = c.regBase.toNat + k := by
  obtain ⟨-, hbase, -⟩ := wf_map hc
  exact (StateRules.window_address hbase h4 hk).1

section
variable {s : State} (hc : s.cfg.wf = true)
include hc

/-- B's load (R641). -/
theorem dmaLoad_addrLinePtr : dmaLoad s (addrLinePtr s.cfg) = (s.regs.linePtr, s) := by
  rw [addrLinePtr, dmaLoad_regWin hc (regWin_toNat hc (by decide) (by decide)) (by decide) (by decide),
    if_neg (fun h => absurd h.1 (by decide))]
  rfl

/-- C's load (R651). -/
theorem dmaLoad_addrPluOutf {v : Word} {q : List Word} (hm : s.cfg.mode = .indexed) (hplo : s.plu.plo = v :: q) :
    dmaLoad s (addrPluOutf s.cfg) = (v, { s with plu := { s.plu with plo := q } }) := by
  rw [addrPluOutf, dmaLoad_regWin hc (regWin_toNat hc (by decide) (by decide)) (by decide) (by decide),
    if_pos ⟨rfl, hm⟩]
  simp only [popPlo, hplo]

/-- The store of A in direct mode, and of D. -/
theorem dmaStore_addrPumpTxf (v : Word) (hroom : full s.cfg.pfDepth s.pump.pf = false) :
    dmaStore s (addrPumpTxf s.cfg) v = .ok { s with pump := { s.pump with pf := s.pump.pf ++ [v] } } := by
  rw [addrPumpTxf, dmaStore_regWin v hc (regWin_toNat hc (by decide) (by decide)) (by decide) (by decide),
    portStore, if_pos rfl, pushPf, hroom]
  rfl

/-- The store of A in indexed mode. -/
theorem dmaStore_addrPluInf (v : Word) (hm : s.cfg.mode = .indexed)
    (hroom : full s.cfg.pliDepth s.plu.pli = false) :
    dmaStore s (addrPluInf s.cfg) v = .ok { s with plu := { s.plu with pli := s.plu.pli ++ [v] } } := by
  rw [addrPluInf, dmaStore_regWin v hc (regWin_toNat hc (by decide) (by decide)) (by decide) (by decide),
    portStore, if_neg (by decide), if_pos ⟨rfl, hm⟩, pushPli, hroom]
  rfl

/-- The stores of B and of C. -/
theorem dmaStore_addrTrig (v : Word) {n : ChanId} (hn : s.cfg.hasChan n = true) :
    dmaStore s (addrTrig s.cfg n) v = trigger n v s := by
  obtain ⟨-, -, hbase, -⟩ := wf_map hc
  have hoff : 0x40 * chanIndex n + offTrig < 256 ∧ (0x40 * chanIndex n + offTrig) % 4 = 0 ∧
      (0x40 * chanIndex n + offTrig) % 0x40 = offTrig := by cases n <;> decide
  obtain ⟨hlt, h4, htrig⟩ := hoff
  have hat : chanAt (0x40 * chanIndex n + offTrig) = n := StateRules.chanAt_block n (by decide)
  have haddr : (addrTrig s.cfg n).toNat = _ := (StateRules.window_address hbase h4 hlt).1
  rw [dmaStore_trigger v hc haddr hlt htrig (by rwa [hat]), hat]

end

/-! ## A busy channel of a legal chain -/

section
variable {s : State} {n : ChanId}

theorem channelLegal_of_hasChan (h : ChannelsProgrammed s) (hn : s.cfg.hasChan n = true) :
    ChannelLegal s.regs.run (s.chan n) ((programChannels s.cfg).get n) := by
  obtain ⟨hA, hB, hC, hD, -⟩ := h
  cases n with
  | a => exact hA
  | b => exact hB
  | c =>
    have hm : s.cfg.mode = .indexed := of_decide_eq_true hn
    rw [programChannels_indexed hm]
    exact hC hm
  | d =>
    have hm : s.cfg.mode = .indexed := of_decide_eq_true hn
    rw [programChannels_indexed hm]
    exact hD hm

/-- The channel is as `INIT` programs it, and enabled. -/
def Live (s : State) (n : ChanId) : Prop :=
  Programmed (s.chan n) ((programChannels s.cfg).get n) ∧ (s.chan n).ctrl.en = true

/-- While the block runs every channel of the mode is live. -/
theorem live_of_run (h : ChannelsProgrammed s) (hrun : s.regs.run = true) (hn : s.cfg.hasChan n = true) :
    Live s n := by
  rcases channelLegal_of_hasChan h hn with ⟨-, hoff⟩ | ⟨hprog, hen⟩
  · rw [hrun] at hoff
    cases hoff
  · exact ⟨hprog, hen.trans hrun⟩

theorem runLegal_chan (h : RunsLegal s) (n : ChanId) : RunLegal (s.chan n) := by
  obtain ⟨hA, hB, hC, hD, -⟩ := h
  cases n <;> assumption

theorem hasChan_of_busy (h : ChannelsProgrammed s) (hb : (s.chan n).ctrl.busy = true) :
    s.cfg.hasChan n = true := by
  obtain ⟨-, -, -, -, habsent, -⟩ := h
  have indexed : n = .c ∨ n = .d → s.cfg.mode = .indexed := by
    intro hn
    cases hm : s.cfg.mode with
    | indexed => rfl
    | direct =>
      obtain ⟨hc, hd⟩ := habsent hm
      rcases hn with rfl | rfl <;> simp [State.chan, Channels.get, hc, hd, Channel.zero] at hb
  cases n with
  | a => rfl
  | b => rfl
  | c => exact decide_eq_true (indexed (.inl rfl))
  | d => exact decide_eq_true (indexed (.inr rfl))

theorem run_of_busy (h : ChainLegal s) (hb : (s.chan n).ctrl.busy = true) : s.regs.run = true := by
  have hen := (runLegal_chan h.runs n).2 hb
  rcases channelLegal_of_hasChan h.programmed (hasChan_of_busy h.programmed hb) with ⟨hzero, -⟩ | ⟨-, hrun⟩
  · rw [hzero] at hb
    cases hb
  · exact hrun.symm.trans hen

theorem live_of_busy (h : ChainLegal s) (hb : (s.chan n).ctrl.busy = true) : Live s n :=
  live_of_run h.programmed (run_of_busy h hb) (hasChan_of_busy h.programmed hb)

theorem Live.transCount_ne_zero (h : Live s n) (hc : s.cfg.wf = true) (hn : s.cfg.hasChan n = true) :
    (s.chan n).transCount ≠ 0 := by
  obtain ⟨⟨-, hcount, -⟩, -⟩ := h
  rw [hcount]
  exact program_transCount_ne_zero hc hn

/-- The control fields no run changes are the program's. -/
theorem Live.ctrl (h : Live s n) :
    (s.chan n).ctrl = { ((programChannels s.cfg).get n).ctrl with
      en := true, busy := (s.chan n).ctrl.busy } := by
  obtain ⟨⟨-, -, hctrl⟩, hen⟩ := h
  rw [← hctrl, ← hen]

theorem Live.ctrlOk (h : Live s n) (hn : s.cfg.hasChan n = true) : ctrlOk s.cfg (s.chan n).ctrl = true := by
  rw [h.ctrl]
  exact program_ctrlOk hn

theorem Live.dreq (h : Live s n) : (s.chan n).ctrl.dreq = ((programChannels s.cfg).get n).ctrl.dreq := by
  rw [h.ctrl]

/-- A channel's step is enabled exactly when it is busy and its pacing holds (R611): a legal chain has no reserved
`CTRL`. -/
theorem enabled_dma_iff (h : ChainLegal s) :
    enabled (.dma n) s = true ↔
      (s.chan n).ctrl.busy = true ∧ dreqOk s ((programChannels s.cfg).get n).ctrl.dreq = true := by
  have hrunning : dmaRunning n s = true ↔ (s.chan n).ctrl.busy = true := by
    rw [MemoryRules.dmaRunning_iff]
    refine ⟨fun ⟨_, _, hb, _⟩ => hb, fun hb => ?_⟩
    obtain ⟨hremain, hen⟩ := runLegal_chan h.runs n
    exact ⟨hasChan_of_busy h.programmed hb, hen hb, hb, hremain.1 hb⟩
  simp only [enabled, dmaEnabled, Bool.and_eq_true, hrunning]
  refine and_congr_right fun hb => ?_
  have hlive := live_of_busy h hb
  simp only [hlive.ctrlOk (hasChan_of_busy h.programmed hb), hlive.dreq, Bool.not_true, Bool.false_or]

/-- The turn of a busy channel whose pacing holds: its load, its store and the count (R612). -/
theorem agentTurn_dma {s₁ u t : State} {v : Word} (h : ChainLegal s) (hb : (s.chan n).ctrl.busy = true)
    (hpace : dreqOk s ((programChannels s.cfg).get n).ctrl.dreq = true)
    (hload : dmaLoad s (s.chan n).readAddr = (v, s₁))
    (hstore : dmaStore s₁ ((programChannels s.cfg).get n).writeAddr v = .ok u)
    (hcount : dmaCount n u = .ok t) : agentTurn (.dma n) s = .next t := by
  have hlive := live_of_busy h hb
  have hok := hlive.ctrlOk (hasChan_of_busy h.programmed hb)
  obtain ⟨⟨hwrite, -⟩, -⟩ := hlive
  rw [Scope.agentTurn_enabled ((enabled_dma_iff h).2 ⟨hb, hpace⟩), runAgent, dmaStep, if_pos hok, dmaTransfer]
  simp only [hload, bswapFn, hwrite, hstore, hcount, outcomeOf]

end

/-! ## The count and the completion -/

theorem setChan_setChan (s : State) (n : ChanId) (x y : Channel) : (s.setChan n x).setChan n y = s.setChan n y := by
  cases n <;> rfl

/-- The last count leaves a channel at rest and completes its run (R612, R614). -/
theorem dmaCount_last {n m : ChanId} {s : State} (hr : (s.chan n).remain = 1)
    (hchain : chanOf (s.chan n).ctrl.chainTo = some m) :
    dmaCount n s =
      if m = n then .ok (s.setChan n (s.chan n).counted.idle)
      else trigger m (s.chan m).readAddr (s.setChan n (s.chan n).counted.idle) := by
  have hzero : (s.chan n).counted.remain = 0 := by simp [Channel.counted, hr]
  have hidle : { (s.chan n).counted with ctrl := { (s.chan n).counted.ctrl with busy := false } } =
      (s.chan n).counted.idle := by
    rw [Channel.idle, ← hzero]
  have hchain' : chanOf (s.chan n).counted.ctrl.chainTo = some m := hchain
  simp only [dmaCount, chan_setChan_self, if_pos hzero, dmaComplete, hidle, setChan_setChan, hchain']
  split
  · rfl
  · rename_i hne
    rw [chan_setChan_ne _ _ hne]

section
variable {s : State} {n : ChanId}

theorem Live.counted (h : Live s n) (hn : s.cfg.hasChan n = true) :
    (s.chan n).counted = { s.chan n with
      readAddr := if n = .a then (s.chan n).readAddr + 4 else (s.chan n).readAddr
      remain := (s.chan n).remain - 1 } := by
  obtain ⟨-, hread, hwrite⟩ := program_ctrl hn
  have hread' : (s.chan n).ctrl.incrRead = decide (n = .a) := by rw [h.ctrl]; exact hread
  have hwrite' : (s.chan n).ctrl.incrWrite = false := by rw [h.ctrl]; exact hwrite
  simp only [Channel.counted, hread', hwrite', decide_eq_true_eq, Bool.false_eq_true, if_false]

theorem Live.chainTo (h : Live s n) (hn : s.cfg.hasChan n = true) :
    chanOf (s.chan n).ctrl.chainTo = some (successor n) := by
  rw [h.ctrl]
  exact (program_ctrl hn).1

/-- B, C and D run for one transfer at a time. -/
theorem remain_of_busy (h : RunsLegal s) (hn : n ≠ .a) (hb : (s.chan n).ctrl.busy = true) :
    (s.chan n).remain = 1 := by
  have hne : (s.chan n).remain ≠ 0 := (runLegal_chan h n).1.1 hb
  have hle : (s.chan n).remain.toNat ≤ 1 := by
    obtain ⟨-, -, -, -, hB, hC, hD, -⟩ := h
    cases n with
    | a => exact absurd rfl hn
    | b => exact hB
    | c => exact hC
    | d => exact hD
  bv_omega

end

/-! ## The moves of the four channels -/

/-- The channels after a transfer of A: the last word of a row hands over to B (R641, R651). -/
def afterA (d : Channels) : Channels := { d with
  a := { d.a with
    readAddr := d.a.readAddr + 4
    remain := d.a.remain - 1
    ctrl := { d.a.ctrl with busy := decide (d.a.remain ≠ 1) } }
  b := if d.a.remain = 1 then { d.b with ctrl := { d.b.ctrl with busy := true }, remain := 1 } else d.b }

/-- The channels after B's transfer of `v` into A's trigger (R641). -/
def afterB (d : Channels) (v : Word) : Channels := { d with a := triggered d.a v, b := d.b.idle }

/-- The channels after C's transfer of `v` into D's trigger (R651). -/
def afterC (d : Channels) (v : Word) : Channels := { d with c := d.c.idle, d := triggered d.d v }

/-- The channels after D's transfer, which hands over to C again (R651). -/
def afterD (d : Channels) : Channels := { d with
  d := d.d.idle
  c := { d.c with ctrl := { d.c.ctrl with busy := true }, remain := 1 } }

section
variable {s : State}

theorem readAddr_of_live {n : ChanId} {a : Word} (h : ReadsFrom (s.chan n) a) (hlive : Live s n) :
    (s.chan n).readAddr = a := by
  obtain ⟨-, hen⟩ := hlive
  rcases h with hzero | ha
  · rw [hzero] at hen
    cases hen
  · exact ha

theorem readAddr_b (h : ChannelsProgrammed s) (hlive : Live s .b) : (s.chan .b).readAddr = addrLinePtr s.cfg := by
  obtain ⟨-, -, -, -, -, hreads, -⟩ := h
  exact readAddr_of_live (n := .b) hreads hlive

theorem readAddr_c (h : ChannelsProgrammed s) (hlive : Live s .c) : (s.chan .c).readAddr = addrPluOutf s.cfg := by
  obtain ⟨-, -, -, -, -, -, hreads⟩ := h
  exact readAddr_of_live (n := .c) hreads hlive

theorem Live.transCount {n : ChanId} (h : Live s n) :
    (s.chan n).transCount = ((programChannels s.cfg).get n).transCount := by
  obtain ⟨⟨-, hcount, -⟩, -⟩ := h
  exact hcount

/-- C and D run for one transfer at a time (R650). -/
theorem transCount_c (hm : s.cfg.mode = .indexed) (h : Live s .c) : (s.chan .c).transCount = 1 := by
  rw [h.transCount, programChannels_indexed hm]
  rfl

theorem transCount_d (hm : s.cfg.mode = .indexed) (h : Live s .d) : (s.chan .d).transCount = 1 := by
  rw [h.transCount, programChannels_indexed hm]
  rfl

/-- The completion of `n` starts the channel chained to it, which is at rest, where it last read (R614). -/
theorem dmaCount_handover {n : ChanId} (hc : s.cfg.wf = true) (hlive : Live s n) (hn : s.cfg.hasChan n = true)
    (hr : (s.chan n).remain = 1) (hne : successor n ≠ n) (hnext : Live s (successor n))
    (hnext' : s.cfg.hasChan (successor n) = true) (hrest : (s.chan (successor n)).ctrl.busy = false)
    (haddr : (s.chan (successor n)).readAddr ≠ 0) :
    dmaCount n s = .ok ((s.setChan n (s.chan n).counted.idle).setChan (successor n)
      ((s.chan (successor n)).started (s.chan (successor n)).readAddr)) := by
  have hcount := hnext.transCount_ne_zero hc hnext'
  obtain ⟨-, hen⟩ := hnext
  have hkept := chan_setChan_ne s (s.chan n).counted.idle hne
  rw [dmaCount_last hr (hlive.chainTo hn), if_neg hne, trigger_start (by rwa [hkept]) (by rwa [hkept]) haddr
    (by rwa [hkept]), hkept]

/-- The last transfer of a channel that chains to itself leaves it at rest. -/
theorem dmaCount_rest {n : ChanId} (hlive : Live s n) (hn : s.cfg.hasChan n = true) (hr : (s.chan n).remain = 1)
    (hself : successor n = n) (hA : n ≠ .a) : dmaCount n s = .ok (s.setChan n (s.chan n).idle) := by
  rw [dmaCount_last hr (hlive.chainTo hn), if_pos hself, hlive.counted hn, if_neg hA]
  rfl

theorem dmaCount_a (hc : s.cfg.wf = true) (h : ChainLegal s) (hb : (s.chan .a).ctrl.busy = true) :
    dmaCount .a s = .ok { s with dma := afterA s.dma } := by
  have hrun := run_of_busy h hb
  have hA : Live s .a := live_of_run h.programmed hrun rfl
  have hcount := hA.counted rfl
  by_cases hlast : (s.chan .a).remain = 1
  case pos =>
    have hB : Live s .b := live_of_run h.programmed hrun rfl
    obtain ⟨-, -, -, -, -, -, -, hAB, -⟩ := h.runs
    have hrest : (s.chan .b).ctrl.busy = false := Bool.eq_false_of_not_eq_true fun hb' => hAB ⟨hb, hb'⟩
    have haddr : (s.chan .b).readAddr ≠ 0 := readAddr_b h.programmed hB ▸ addrLinePtr_ne_zero hc
    rw [dmaCount_handover hc hA rfl hlast (by decide) hB rfl hrest haddr, hcount, successor,
      started_of_transCount _ hB.transCount]
    have hlast' : s.dma.a.remain = 1 := hlast
    simp only [afterA, hlast', if_true]
    rfl
  case neg =>
    rw [dmaCount_more hlast, hcount]
    have hlast' : s.dma.a.remain ≠ 1 := hlast
    simp only [afterA, if_neg hlast', decide_eq_true hlast']
    rw [← hb]
    rfl

theorem dmaCount_d (hc : s.cfg.wf = true) (h : ChainLegal s) (hb : (s.chan .d).ctrl.busy = true) :
    dmaCount .d s = .ok { s with dma := afterD s.dma } := by
  have hrun := run_of_busy h hb
  have hchan := hasChan_of_busy h.programmed hb
  have hD : Live s .d := live_of_run h.programmed hrun hchan
  have hC : Live s .c := live_of_run h.programmed hrun hchan
  obtain ⟨-, -, -, -, -, -, -, -, hCD⟩ := h.runs
  have hrest : (s.chan .c).ctrl.busy = false := Bool.eq_false_of_not_eq_true fun hb' => hCD ⟨hb', hb⟩
  have haddr : (s.chan .c).readAddr ≠ 0 := readAddr_c h.programmed hC ▸ addrPluOutf_ne_zero hc
  have hone := transCount_c (of_decide_eq_true hchan) hC
  rw [dmaCount_handover hc hD hchan (remain_of_busy h.runs (by decide) hb) (by decide) hC hchan hrest haddr,
    hD.counted hchan, successor, started_of_transCount _ hone]
  rfl

end

/-! ## The turns of the four channels -/

/-- A's store and pacing by the mode (R640, R650). -/
theorem program_a_port {c : Config} :
    (c.mode = .direct → ((programChannels c).get .a).writeAddr = addrPumpTxf c ∧
      ((programChannels c).get .a).ctrl.dreq = 1) ∧
    (c.mode = .indexed → ((programChannels c).get .a).writeAddr = addrPluInf c ∧
      ((programChannels c).get .a).ctrl.dreq = 2) := by
  constructor <;> intro hm <;> simp [programChannels, Channels.get, programA, hm]

theorem dreqOk_pf {s : State} : dreqOk s 1 = true ↔ full s.cfg.pfDepth s.pump.pf = false :=
  (Bool.not_eq_true' _).to_iff

theorem dreqOk_pli {s : State} : dreqOk s 2 = true ↔ full s.cfg.pliDepth s.plu.pli = false :=
  (Bool.not_eq_true' _).to_iff

theorem dreqOk_plo {s : State} : dreqOk s 3 = true ↔ ∃ v q, s.plu.plo = v :: q := by
  rw [← List.ne_nil_iff_exists_cons, ← List.isEmpty_eq_false_iff]
  exact (Bool.not_eq_true' _).to_iff

/-- A's words are in RAM. -/
theorem dmaLoad_a {s : State} (h : ChainLegal s) (hb : (s.chan .a).ctrl.busy = true) :
    dmaLoad s (s.chan .a).readAddr = (memRead s.mem s.dma.a.readAddr .word, s) := by
  obtain ⟨hwords, -⟩ := h.addresses
  obtain ⟨halign, hram⟩ := hwords hb
  have hremain : s.dma.a.remain ≠ 0 := (runLegal_chan h.runs .a).1.1 hb
  refine dmaLoad_ram halign ?_
  rw [inRam_iff] at hram ⊢
  change _ ∧ s.dma.a.readAddr.toNat + 4 ≤ _
  exact ⟨hram.1, by bv_omega⟩

section
variable {s : State} (hc : s.cfg.wf = true) (h : ChainLegal s)
include hc h

/-- A's transfer in direct mode (R640). -/
theorem agentTurn_a_direct (hb : (s.chan .a).ctrl.busy = true) (hm : s.cfg.mode = .direct)
    (hroom : full s.cfg.pfDepth s.pump.pf = false) :
    agentTurn (.dma .a) s = .next { s with
      pump := { s.pump with pf := s.pump.pf ++ [memRead s.mem s.dma.a.readAddr .word] }
      dma := afterA s.dma } := by
  obtain ⟨hwrite, hdreq⟩ := program_a_port.1 hm
  have hstore := dmaStore_addrPumpTxf hc (memRead s.mem s.dma.a.readAddr .word) hroom
  rw [← hwrite] at hstore
  exact agentTurn_dma h hb (hdreq ▸ dreqOk_pf.2 hroom) (dmaLoad_a h hb) hstore
    (dmaCount_a hc ⟨h.programmed, h.runs, h.addresses⟩ hb)

/-- A's transfer in indexed mode (R650). -/
theorem agentTurn_a_indexed (hb : (s.chan .a).ctrl.busy = true) (hm : s.cfg.mode = .indexed)
    (hroom : full s.cfg.pliDepth s.plu.pli = false) :
    agentTurn (.dma .a) s = .next { s with
      plu := { s.plu with pli := s.plu.pli ++ [memRead s.mem s.dma.a.readAddr .word] }
      dma := afterA s.dma } := by
  obtain ⟨hwrite, hdreq⟩ := program_a_port.2 hm
  have hstore := dmaStore_addrPluInf hc (memRead s.mem s.dma.a.readAddr .word) hm hroom
  rw [← hwrite] at hstore
  exact agentTurn_dma h hb (hdreq ▸ dreqOk_pli.2 hroom) (dmaLoad_a h hb) hstore
    (dmaCount_a hc ⟨h.programmed, h.runs, h.addresses⟩ hb)

/-- B's transfer (R641). -/
theorem agentTurn_b (hb : (s.chan .b).ctrl.busy = true) :
    agentTurn (.dma .b) s = .next { s with dma := afterB s.dma s.regs.linePtr } := by
  have hrun := run_of_busy h hb
  have hA : Live s .a := live_of_run h.programmed hrun rfl
  have hB : Live s .b := live_of_run h.programmed hrun rfl
  obtain ⟨-, -, -, -, -, -, -, hAB, -⟩ := h.runs
  have hrest : (s.chan .a).ctrl.busy = false := Bool.eq_false_of_not_eq_true fun hb' => hAB ⟨hb', hb⟩
  have hload : dmaLoad s (s.chan .b).readAddr = (s.regs.linePtr, s) := by
    rw [readAddr_b h.programmed hB]
    exact dmaLoad_addrLinePtr hc
  have hstore : dmaStore s (addrTrig s.cfg .a) s.regs.linePtr = _ :=
    (dmaStore_addrTrig hc _ rfl).trans (trigger_of_idle _ hrest hA.2 (hA.transCount_ne_zero hc rfl))
  have hB' : Live (s.setChan .a (triggered (s.chan .a) s.regs.linePtr)) .b := hB
  have hr := remain_of_busy h.runs (by decide) hb
  exact agentTurn_dma h hb rfl hload hstore (dmaCount_rest hB' rfl hr rfl (by decide))

/-- C's transfer (R651). -/
theorem agentTurn_c {v : Word} {q : List Word} (hb : (s.chan .c).ctrl.busy = true) (hplo : s.plu.plo = v :: q) :
    agentTurn (.dma .c) s = .next { s with
      plu := { s.plu with plo := q }
      dma := afterC s.dma v } := by
  have hrun := run_of_busy h hb
  have hchan := hasChan_of_busy h.programmed hb
  have hm : s.cfg.mode = .indexed := of_decide_eq_true hchan
  have hchanD : s.cfg.hasChan .d = true := hchan
  have hC : Live s .c := live_of_run h.programmed hrun hchan
  have hD : Live s .d := live_of_run h.programmed hrun hchanD
  obtain ⟨-, -, -, -, -, -, -, -, hCD⟩ := h.runs
  have hrest : (s.chan .d).ctrl.busy = false := Bool.eq_false_of_not_eq_true fun hb' => hCD ⟨hb, hb'⟩
  have hload : dmaLoad s (s.chan .c).readAddr = (v, { s with plu := { s.plu with plo := q } }) := by
    rw [readAddr_c h.programmed hC]
    exact dmaLoad_addrPluOutf hc hm hplo
  have hD' : Live { s with plu := { s.plu with plo := q } } .d := hD
  have hstore := (dmaStore_addrTrig (s := { s with plu := { s.plu with plo := q } }) hc v hchanD).trans
    (trigger_of_idle v hrest hD'.2 (hD'.transCount_ne_zero hc hchanD))
  have hprog : ((programChannels s.cfg).get .c) = programC s.cfg := by rw [programChannels_indexed hm]; rfl
  have hpace : dreqOk s ((programChannels s.cfg).get .c).ctrl.dreq = true := hprog ▸ dreqOk_plo.2 ⟨v, q, hplo⟩
  have hwrite : ((programChannels s.cfg).get .c).writeAddr = addrTrig s.cfg .d := hprog ▸ rfl
  have hr := remain_of_busy h.runs (by decide) hb
  have hC' : Live (State.setChan { s with plu := { s.plu with plo := q } } .d (triggered (s.chan .d) v)) .c := hC
  rw [← hwrite] at hstore
  exact agentTurn_dma h hb hpace hload hstore (dmaCount_rest hC' hchan hr rfl (by decide))

/-- D's transfer (R651). -/
theorem agentTurn_d (hb : (s.chan .d).ctrl.busy = true) (hroom : full s.cfg.pfDepth s.pump.pf = false) :
    agentTurn (.dma .d) s = .next { s with
      pump := { s.pump with pf := s.pump.pf ++ [memRead s.mem s.dma.d.readAddr .word] }
      dma := afterD s.dma } := by
  have hchan := hasChan_of_busy h.programmed hb
  obtain ⟨-, hword, -⟩ := h.addresses
  obtain ⟨halign, hram⟩ := hword hb
  have hprog : ((programChannels s.cfg).get .d) = programD s.cfg := by
    rw [programChannels_indexed (of_decide_eq_true hchan)]
    rfl
  have hpace : dreqOk s ((programChannels s.cfg).get .d).ctrl.dreq = true := hprog ▸ dreqOk_pf.2 hroom
  have hwrite : ((programChannels s.cfg).get .d).writeAddr = addrPumpTxf s.cfg := hprog ▸ rfl
  have hstore := dmaStore_addrPumpTxf hc (memRead s.mem s.dma.d.readAddr .word) hroom
  rw [← hwrite] at hstore
  exact agentTurn_dma h hb hpace (dmaLoad_ram halign hram) hstore
    (dmaCount_d hc ⟨h.programmed, h.runs, h.addresses⟩ hb)

end

/-! ## The transfers as the statements give them -/

/-- Settles O25: A's turn is `afterA` with the word pushed to the port of the mode. -/
theorem channelAStreamsTheRow : Obligations.ChannelAStreamsTheRow := by
  rintro s ⟨hc, -⟩ h hb
  exact ⟨fun hm hroom => agentTurn_a_direct hc h hb hm (decide_eq_false hroom),
    fun hm hroom => agentTurn_a_indexed hc h hb hm (decide_eq_false hroom)⟩

/-- Settles O26: A's run is as long as `INIT` has programmed it. -/
theorem channelBReloadsFromLinePtr : Obligations.ChannelBReloadsFromLinePtr := by
  rintro s ⟨hc, -⟩ h hb
  have hA : Live s .a := live_of_run h.programmed (run_of_busy (n := .b) h hb) rfl
  have hcount : s.dma.a.transCount = BitVec.ofNat 32 s.cfg.lineWords := hA.transCount
  rw [agentTurn_b hc h hb, afterB, triggered_of_transCount _ hcount]
  rfl

/-- Settles O27: D is at rest while C is busy, so a null trigger only writes its address. -/
theorem channelsCAndDMoveOnePixel : Obligations.ChannelsCAndDMoveOnePixel := by
  rintro s ⟨hc, -⟩ h hm
  refine ⟨fun v q hb hplo hv => ?_, fun q hb hplo => ?_, fun hb hroom => ?_⟩
  case refine_1 =>
    have hchan : s.cfg.hasChan .d = true := decide_eq_true hm
    have hD : Live s .d := live_of_run h.programmed (run_of_busy (n := .c) h hb) hchan
    have hone : s.dma.d.transCount = 1 := transCount_d hm hD
    rw [agentTurn_c hc h hb hplo, afterC, triggered_of_ne _ hv, started_of_transCount _ hone]
    rfl
  case refine_2 =>
    obtain ⟨-, -, -, hrunD, -, -, -, -, hCD⟩ := h.runs
    have hrest : s.dma.d.ctrl.busy = false := Bool.eq_false_of_not_eq_true fun hb' => hCD ⟨hb, hb'⟩
    have hidle := idle_of_rest (x := { s.dma.d with readAddr := 0 }) hrunD hrest
    rw [agentTurn_c hc h hb hplo, afterC, triggered_zero, hidle]
    rfl
  case refine_3 => exact agentTurn_d hc h hb (decide_eq_false hroom)

/-! ## The steps that leave the chain alone -/

/-- All that the chain's legality speaks of, and the faults the chain can raise. -/
def chainPart (s : State) : Config × Bool × Channels × List Word × BitVec 11 :=
  (s.cfg, s.regs.run, s.dma, s.plu.plo, dmaFaults s)

/-- The chain is legal after the step, and no DMA fault has been raised. -/
def KeepsChain (s t : State) : Prop := ChainLegal t ∧ dmaFaults t = dmaFaults s

theorem KeepsChain.of_chainPart_eq {s t : State} (h : chainPart t = chainPart s) (hs : ChainLegal s) :
    KeepsChain s t := by
  simp only [chainPart, Prod.mk.injEq] at h
  obtain ⟨hcfg, hrun, hdma, hplo, hfaults⟩ := h
  refine ⟨⟨?_, ?_, ?_⟩, hfaults⟩
  · rw [ChannelsProgrammed, hcfg, hrun, hdma]
    exact hs.programmed
  · rw [RunsLegal, hdma]
    exact hs.runs
  · rw [AddressesLegal, hcfg, hdma, hplo]
    exact hs.addresses

/-- The codes that are no fault of the chain. -/
theorem raise_chainPart {c : Code} (hc : c.mask &&& 0x700 = 0) (s : State) :
    chainPart (raise c s) = chainPart s := by
  have hfaults : dmaFaults (raise c s) = dmaFaults s := by
    rw [dmaFaults, raise_regs, BitVec.and_or_distrib_right, hc]
    exact BitVec.or_zero
  rw [chainPart, hfaults]
  rfl

theorem raiseIf_chainPart {c : Code} (hc : c.mask &&& 0x700 = 0) (b : Bool) (s : State) :
    chainPart (raiseIf b c s) = chainPart s := by
  cases b
  case false => rfl
  case true => exact raise_chainPart hc s

/-! ### The tick -/

theorem pumpEmit_chainPart (s : State) : chainPart (pumpEmit s) = chainPart s := by
  unfold pumpEmit
  split
  · exact raise_chainPart (by decide) s
  · rfl

theorem pumpCycle_chainPart (b : Bool) (s : State) : chainPart (pumpCycle b s) = chainPart s := by
  rcases pumpCycle_cases b s with ⟨h, -⟩ | ⟨h, -⟩ | ⟨h, -⟩ <;> rw [h]
  case inl => rfl
  case inr.inl => exact pumpEmit_chainPart _
  case inr.inr => exact pumpEmit_chainPart _

theorem deliver_chainPart (t : Trig) (s : State) : chainPart (deliver t s) = chainPart s := by
  cases t with
  | none => rfl
  | lineReady => exact raiseIf_chainPart (c := .startLost) (by decide) _ s
  | nextLine => exact raiseIf_chainPart (c := .lineLost) (by decide) _ s
  | frameReady => exact raiseIf_chainPart (c := .frameLost) (by decide) _ s

theorem wordTick_chainPart (t : Trig) (n : BitVec 16) (hs vs : Bool) (s : State) :
    chainPart (wordTick t n hs vs s) = chainPart s := by
  have pump := pumpCycle_chainPart s.regs.startF
    { s with tgen := (s.tgen.loadWord (timingWord t vs hs n) n).cycle hs vs }
  unfold wordTick
  simp only []
  split
  · exact (deliver_chainPart t _).trans pump
  · exact pump

theorem tickStep_chainPart {s t : State} (h : tickStep s = .next t) : chainPart t = chainPart s := by
  rcases tickStep_next h with ⟨-, -, rfl⟩ | ⟨w, q, -, -, -, rfl⟩ | ⟨-, -, rfl⟩
  · exact (pumpCycle_chainPart s.regs.startF _).trans (raise_chainPart (c := .tqUnderrun) (by decide) s)
  · exact wordTick_chainPart _ _ _ _ { s with tgen := { s.tgen with tq := q } }
  · exact wordTick_chainPart ..

/-! ### The producers -/

theorem setCmd_chainPart (s : State) (c : Cmd) : chainPart (s.setCmd c) = chainPart s := by
  simp [chainPart, dmaFaults]

theorem producerStore_chainPart {s t : State} {a : Word} {z : Size} {v : Word}
    (h : producerStore s a z v = .ok t) : chainPart t = chainPart s := by
  obtain ⟨-, -, rfl⟩ := producerStore_ok h
  rfl

theorem copyPixel_chainPart {s t : State} {src dest : Word} {layers o : Nat}
    (h : copyPixel s src layers dest o = .ok t) : chainPart t = chainPart s := by
  obtain ⟨v, -, rfl⟩ := copyPixel_ok h
  rfl

theorem thenCmd_chainPart {s t : State} {r : Except Refusal State} {c : Cmd} (h : thenCmd r c = .ok t)
    (hr : ∀ u, r = .ok u → chainPart u = chainPart s) : chainPart t = chainPart s := by
  cases r with
  | error e => cases h
  | ok u =>
    cases h
    exact (setCmd_chainPart u c).trans (hr u rfl)

theorem cmdStep_chainPart {c : Cmd} {s t : State} (h : cmdStep c s = .ok t) : chainPart t = chainPart s := by
  cases c with
  | idle => cases h; rfl
  | waitVsync => cases h; exact setCmd_chainPart s _
  | uRead src layers dest cur =>
    simp only [cmdStep, stepURead] at h
    split at h <;> (cases h; exact setCmd_chainPart s _)
  | uCopy src layers dest cur re => exact thenCmd_chainPart h fun u => copyPixel_chainPart
  | uiWait src layers pal => cases h; exact setCmd_chainPart s _
  | uiPal src layers pal dest i =>
    simp only [cmdStep, stepUiPal] at h
    split at h
    · cases h
    · exact thenCmd_chainPart h fun u => producerStore_chainPart
  | uiCopy src layers dest o => exact thenCmd_chainPart h fun u => copyPixel_chainPart
  | pCopy src dest x y w h' yy xx =>
    simp only [cmdStep, stepPCopy] at h
    split at h
    · cases h
    · exact thenCmd_chainPart h fun u => producerStore_chainPart

/-- A refused command. -/
theorem refuse_chainPart (s : State) :
    chainPart (refuse .unsupported s) = chainPart s ∧ chainPart (refuse .argRange s) = chainPart s :=
  ⟨raise_chainPart (by decide) s, raise_chainPart (by decide) s⟩

theorem execSetFramebuffer_chainPart {b : Word} {s t : State} (h : execSetFramebuffer b s = .next t) :
    chainPart t = chainPart s := by
  simp only [execSetFramebuffer] at h
  split at h
  · cases h
    rfl
  · cases h
    exact (refuse_chainPart s).2

theorem execSetPalette_chainPart {i c : Word} {s t : State} (h : execSetPalette i c s = .next t) :
    chainPart t = chainPart s := by
  simp only [execSetPalette] at h
  split_ifs at h
  · cases h
    exact (refuse_chainPart s).1
  · cases h
    exact (refuse_chainPart s).2
  · exact producerStore_chainPart (outcomeOf_next h)

theorem execSetBacklight_chainPart {b : Word} {s t : State} (h : execSetBacklight b s = .next t) :
    chainPart t = chainPart s := by
  simp only [execSetBacklight] at h
  split at h
  · cases h
    exact (refuse_chainPart s).2
  · cases h
    rfl

/-- The two commands that wait for the frame set `VSWAIT` first. -/
theorem setWait_chainPart (s : State) (c : Cmd) :
    chainPart (State.setCmd { s with regs := { s.regs with vsWait := true } } c) = chainPart s :=
  setCmd_chainPart _ c

theorem execUpdate_chainPart {src layers pal : Word} {s t : State}
    (h : execUpdate src layers pal s = .next t) : chainPart t = chainPart s := by
  simp only [execUpdate] at h
  split at h
  · cases h
    exact (refuse_chainPart s).2
  · split at h
    · cases h
      exact setCmd_chainPart s _
    · cases h
      exact setWait_chainPart s _

theorem execPartialUpdate_chainPart {src layers : Word} {x y w n : BitVec 16} {s t : State}
    (h : execPartialUpdate src layers x y w n s = .next t) : chainPart t = chainPart s := by
  simp only [execPartialUpdate] at h
  split_ifs at h
  · cases h
    exact (refuse_chainPart s).1
  · cases h
    exact (refuse_chainPart s).2
  · cases h
    exact (refuse_chainPart s).2
  · cases h
    rfl
  · cases h
    exact setCmd_chainPart s _

/-! ## The palette unit hands C addresses in RAM -/

theorem paletteAddr_wordsInRam {c : Config} (hc : c.wf = true) (hm : c.mode = .indexed) {i : Nat} (hi : i < 256) :
    WordsInRam c (paletteAddr c i) 1 := by
  obtain ⟨htop, -⟩ := wf_map hc
  obtain ⟨-, -, -, -, -, -, -, -, -, -, -, hpal, -⟩ := wf_checks hc
  simp only [Config.okPalette, hm, Bool.and_eq_true, decide_eq_true_eq, inRam_iff] at hpal
  obtain ⟨halign, hbase, hend⟩ := hpal
  have haddr : (paletteAddr c i).toNat = c.paletteBase.toNat + 4 * i := offset_toNat (by omega)
  rw [WordsInRam, inRam_iff, haddr]
  omega

theorem pluStep_keepsChain {s : State} (hc : s.cfg.wf = true) (he : pluEnabled s = true) (h : ChainLegal s) :
    KeepsChain s (pluStep s) := by
  have hm : s.cfg.mode = .indexed := by
    simp only [pluEnabled, pluLoadEnabled, pluLookupEnabled, Bool.or_eq_true, Bool.and_eq_true,
      decide_eq_true_eq] at he
    rcases he with ⟨⟨⟨hm, -⟩, -⟩, -⟩ | ⟨⟨⟨hm, -⟩, -⟩, -⟩ <;> exact hm
  obtain ⟨hA, hD, hplo⟩ := h.addresses
  refine ⟨⟨h.programmed, h.runs, hA, hD, ?_⟩, rfl⟩
  simp only [pluStep]
  split
  · rw [StepChanges.pluLoad_plo]
    exact hplo
  · have hlast : WordsInRam s.cfg (s.plu.nextAddr s.cfg) 1 := paletteAddr_wordsInRam hc hm (BitVec.isLt _)
    simp only [Plu.lookup, push, List.all_append, List.all_cons, List.all_nil, Bool.and_true, Bool.and_eq_true]
    exact ⟨hplo, decide_eq_true hlast⟩

/-! ## The channels keep the chain legal -/

theorem wordsInRam_next {c : Config} (hc : c.wf = true) {a k : Word} (h : WordsInRam c a k.toNat) (h0 : k ≠ 0)
    (h1 : k ≠ 1) : WordsInRam c (a + 4) (k - 1).toNat := by
  obtain ⟨htop, -⟩ := wf_map hc
  rw [WordsInRam, inRam_iff] at h ⊢
  obtain ⟨halign, hbase, hend⟩ := h
  have hk : 2 ≤ k.toNat := by bv_omega
  have hleft : (k - 1).toNat = k.toNat - 1 := by bv_omega
  have haddr : (a + 4).toNat = a.toNat + 4 := by bv_omega
  rw [hleft, haddr]
  omega

section
variable {s : State}

/-- A running chain is programmed when each channel of the mode is live and B and C read their registers. -/
theorem channelsProgrammed_of_live (hrun : s.regs.run = true) (hlive : ∀ n, s.cfg.hasChan n = true → Live s n)
    (habsent : s.cfg.mode = .direct → s.dma.c = .zero ∧ s.dma.d = .zero)
    (hreadB : s.dma.b.readAddr = addrLinePtr s.cfg)
    (hreadC : s.cfg.mode = .indexed → s.dma.c.readAddr = addrPluOutf s.cfg) : ChannelsProgrammed s := by
  have legal : ∀ n, s.cfg.hasChan n = true → ChannelLegal s.regs.run (s.chan n) ((programChannels s.cfg).get n) := by
    intro n hn
    obtain ⟨hprog, hen⟩ := hlive n hn
    exact .inr ⟨hprog, hen.trans hrun.symm⟩
  refine ⟨legal .a rfl, legal .b rfl, fun hm => ?_, fun hm => ?_, habsent, .inr hreadB, ?_⟩
  · have hC := legal .c (decide_eq_true hm)
    rwa [programChannels_indexed hm] at hC
  · have hD := legal .d (decide_eq_true hm)
    rwa [programChannels_indexed hm] at hD
  · cases hm : s.cfg.mode with
    | direct => exact .inl (habsent hm).1
    | indexed => exact .inr (hreadC hm)

/-- What a running chain's legality says of the addresses of B and C, and of C and D in direct mode. -/
theorem reads_of_run (h : ChannelsProgrammed s) (hrun : s.regs.run = true) :
    (s.cfg.mode = .direct → s.dma.c = .zero ∧ s.dma.d = .zero) ∧
    s.dma.b.readAddr = addrLinePtr s.cfg ∧ (s.cfg.mode = .indexed → s.dma.c.readAddr = addrPluOutf s.cfg) := by
  obtain ⟨-, -, -, -, habsent, -⟩ := id h
  exact ⟨habsent, readAddr_b h (live_of_run h hrun rfl),
    fun hm => readAddr_c h (live_of_run h hrun (decide_eq_true hm))⟩

/-! ### A -/

theorem afterA_last {d : Channels} (h : d.a.remain = 1) :
    afterA d = { d with
      a := { d.a with readAddr := d.a.readAddr + 4 }.idle
      b := { d.b with ctrl := { d.b.ctrl with busy := true }, remain := 1 } } := by
  simp [afterA, h, Channel.idle]

theorem afterA_more {d : Channels} (hb : d.a.ctrl.busy = true) (h : d.a.remain ≠ 1) :
    afterA d = { d with a := { d.a with readAddr := d.a.readAddr + 4, remain := d.a.remain - 1 } } := by
  rw [afterA, if_neg h, decide_eq_true h, ← hb]

theorem chainLegal_afterA (hc : s.cfg.wf = true) (h : ChainLegal s) (hb : (s.chan .a).ctrl.busy = true) :
    ChainLegal { s with dma := afterA s.dma } := by
  have hrun := run_of_busy h hb
  have hlive : ∀ n, s.cfg.hasChan n = true → Live s n := fun n => live_of_run h.programmed hrun
  obtain ⟨habsent, hreadB, hreadC⟩ := reads_of_run h.programmed hrun
  obtain ⟨hrunA, hrunB, hrunC, hrunD, hleB, hleC, hleD, hAB, hCD⟩ := h.runs
  obtain ⟨hwords, hword, hplo⟩ := h.addresses
  by_cases hlast : s.dma.a.remain = 1
  case pos =>
    rw [afterA_last hlast]
    refine ⟨channelsProgrammed_of_live hrun (fun n hn => ?_) habsent hreadB hreadC,
      ⟨runLegal_idle _, runLegal_one (hlive .b rfl).2, hrunC, hrunD, le_rfl, hleC, hleD,
        fun hboth => Bool.false_ne_true hboth.1, hCD⟩,
      ⟨fun hidle => absurd hidle Bool.false_ne_true, hword, hplo⟩⟩
    cases n <;> exact hlive _ hn
  case neg =>
    have h0 : s.dma.a.remain ≠ 0 := hrunA.1.1 hb
    have hmore : s.dma.a.remain - 1 ≠ 0 := by bv_omega
    rw [afterA_more hb hlast]
    refine ⟨channelsProgrammed_of_live hrun (fun n hn => ?_) habsent hreadB hreadC,
      ⟨⟨iff_of_true hb hmore, fun _ => (hlive .a rfl).2⟩, hrunB, hrunC, hrunD, hleB, hleC, hleD, hAB, hCD⟩,
      ⟨fun _ => wordsInRam_next hc (hwords hb) h0 hlast, hword, hplo⟩⟩
    cases n <;> exact hlive _ hn

/-! ### A's run lies in RAM -/

/-- A row shown lies in RAM. -/
theorem rowPointer_wordsInRam {c : Config} {live : Word} (hc : c.wf = true) (hlive : c.bufferOk live = true) {r : Nat}
    (hr : r < c.height) : WordsInRam c (rowPointer c live r) c.lineWords := by
  obtain ⟨-, -, -, -, -, hwords, h4, -⟩ := wf_sizes hc
  obtain ⟨halign, hbase, hend⟩ := (bufferOk_iff c live).1 hlive
  have hoff := MemoryRules.rowOffset_le hc hr
  have hmul : c.stride * (r >>> c.rowShift.toNat) % 4 = 0 := by rw [Nat.mul_mod, h4]; simp
  rw [WordsInRam, inRam_iff, MemoryRules.rowPointer_toNat hc hlive hr]
  omega

/-- The row `LINEPTR` publishes lies in RAM, if it publishes one. -/
theorem linePtr_wordsInRam (hs : ScanLegal s) (hne : s.regs.linePtr ≠ 0) :
    WordsInRam s.cfg s.regs.linePtr s.cfg.lineWords := by
  obtain ⟨hc, hrow, hptr, hlive, -⟩ := hs
  rcases hptr with hzero | hptr
  · exact absurd hzero hne
  · have hlt : s.regs.displayRow.toNat < s.cfg.height := by
      refine lt_of_le_of_ne hrow fun heq => hne ?_
      rw [hptr, rowPointer, if_pos heq]
    rw [hptr]
    exact rowPointer_wordsInRam hc hlive hlt

theorem lineWords_of_triggered (hc : s.cfg.wf = true) (hlive : Live s .a) {v : Word} (hv : v ≠ 0) :
    (triggered (s.chan .a) v).remain.toNat = s.cfg.lineWords := by
  have hcount : (s.chan .a).transCount = BitVec.ofNat 32 s.cfg.lineWords := hlive.transCount
  rw [triggered, if_neg hv, hcount, (lineWords_toNat hc).1]

/-! ### B, C and D -/

theorem chainLegal_afterB (hs : ScanLegal s) (h : ChainLegal s) (hb : (s.chan .b).ctrl.busy = true) :
    ChainLegal { s with dma := afterB s.dma s.regs.linePtr } := by
  have hrun := run_of_busy h hb
  have hlive : ∀ n, s.cfg.hasChan n = true → Live s n := fun n => live_of_run h.programmed hrun
  have hA : Live s .a := hlive .a rfl
  obtain ⟨hc, -⟩ := id hs
  obtain ⟨habsent, hreadB, hreadC⟩ := reads_of_run h.programmed hrun
  obtain ⟨-, -, hrunC, hrunD, -, hleC, hleD, -, hCD⟩ := h.runs
  obtain ⟨-, hword, hplo⟩ := h.addresses
  refine ⟨channelsProgrammed_of_live hrun (fun n hn => ?_) habsent hreadB hreadC,
    ⟨runLegal_triggered _ hA.2 (hA.transCount_ne_zero hc rfl), runLegal_idle _, hrunC, hrunD, Nat.zero_le _, hleC,
      hleD, fun hboth => Bool.false_ne_true hboth.2, hCD⟩,
    ⟨fun hbusy => ?_, hword, hplo⟩⟩
  · cases n <;> exact hlive _ hn
  · have hne : s.regs.linePtr ≠ 0 := of_decide_eq_true hbusy
    have hlen := lineWords_of_triggered hc hA hne
    change WordsInRam s.cfg s.regs.linePtr (triggered (s.chan .a) s.regs.linePtr).remain.toNat
    rw [hlen]
    exact linePtr_wordsInRam hs hne

theorem chainLegal_afterC (hc : s.cfg.wf = true) (h : ChainLegal s) {v : Word} {q : List Word}
    (hb : (s.chan .c).ctrl.busy = true) (hplo : s.plu.plo = v :: q) :
    ChainLegal { s with plu := { s.plu with plo := q }, dma := afterC s.dma v } := by
  have hrun := run_of_busy h hb
  have hm : s.cfg.mode = .indexed := of_decide_eq_true (hasChan_of_busy h.programmed hb)
  have hchan : s.cfg.hasChan .d = true := decide_eq_true hm
  have hlive : ∀ n, s.cfg.hasChan n = true → Live s n := fun n => live_of_run h.programmed hrun
  have hD : Live s .d := hlive .d hchan
  obtain ⟨-, hreadB, hreadC⟩ := reads_of_run h.programmed hrun
  obtain ⟨hrunA, hrunB, -, -, hleB, -, -, hAB, -⟩ := h.runs
  obtain ⟨hwords, -, hentries⟩ := h.addresses
  rw [hplo, List.all_cons, Bool.and_eq_true, decide_eq_true_eq] at hentries
  obtain ⟨hentry, hrest⟩ := hentries
  have hleD : (triggered (s.chan .d) v).remain.toNat ≤ 1 := by
    rw [triggered_of_transCount v (transCount_d hm hD)]
    simp only []
    split <;> decide
  refine ⟨channelsProgrammed_of_live hrun (fun n hn => ?_) (fun hd => absurd (hd.symm.trans hm) (by decide)) hreadB
      hreadC,
    ⟨hrunA, hrunB, runLegal_idle _, runLegal_triggered _ hD.2 (hD.transCount_ne_zero hc hchan), hleB, Nat.zero_le _,
      hleD, hAB, fun hboth => Bool.false_ne_true hboth.1⟩,
    ⟨hwords, fun _ => hentry, hrest⟩⟩
  cases n <;> exact hlive _ hn

theorem chainLegal_afterD (h : ChainLegal s) (hb : (s.chan .d).ctrl.busy = true) :
    ChainLegal { s with dma := afterD s.dma } := by
  have hrun := run_of_busy h hb
  have hm : s.cfg.mode = .indexed := of_decide_eq_true (hasChan_of_busy h.programmed hb)
  have hlive : ∀ n, s.cfg.hasChan n = true → Live s n := fun n => live_of_run h.programmed hrun
  have hC : Live s .c := hlive .c (decide_eq_true hm)
  obtain ⟨-, hreadB, hreadC⟩ := reads_of_run h.programmed hrun
  obtain ⟨hrunA, hrunB, -, -, hleB, -, -, hAB, -⟩ := h.runs
  obtain ⟨hwords, -, hplo⟩ := h.addresses
  refine ⟨channelsProgrammed_of_live hrun (fun n hn => ?_) (fun hd => absurd (hd.symm.trans hm) (by decide)) hreadB
      hreadC,
    ⟨hrunA, hrunB, runLegal_one hC.2, runLegal_idle _, hleB, le_rfl, Nat.zero_le _, hAB,
      fun hboth => Bool.false_ne_true hboth.2⟩,
    ⟨hwords, fun hidle => absurd hidle Bool.false_ne_true, hplo⟩⟩
  cases n <;> exact hlive _ hn

end

/-- A channel's step keeps the chain legal and raises none of its faults: its pacing has found room for what it
pushes, or a word to pop, and the channel it triggers is at rest. -/
theorem dmaTurn_keepsChain {s t : State} {n : ChanId} (hs : ScanLegal s) (h : ChainLegal s)
    (he : enabled (.dma n) s = true) (hturn : agentTurn (.dma n) s = .next t) : KeepsChain s t := by
  obtain ⟨hc, -⟩ := id hs
  obtain ⟨hb, hpace⟩ := (enabled_dma_iff h).1 he
  cases n with
  | a =>
    have hlegal := chainLegal_afterA hc h hb
    cases hm : s.cfg.mode with
    | direct =>
      obtain ⟨-, hdreq⟩ := program_a_port.1 hm
      rw [hdreq, dreqOk_pf] at hpace
      cases (agentTurn_a_direct hc h hb hm hpace).symm.trans hturn
      exact ⟨⟨hlegal.programmed, hlegal.runs, hlegal.addresses⟩, rfl⟩
    | indexed =>
      obtain ⟨-, hdreq⟩ := program_a_port.2 hm
      rw [hdreq, dreqOk_pli] at hpace
      cases (agentTurn_a_indexed hc h hb hm hpace).symm.trans hturn
      exact ⟨⟨hlegal.programmed, hlegal.runs, hlegal.addresses⟩, rfl⟩
  | b =>
    cases (agentTurn_b hc h hb).symm.trans hturn
    exact ⟨chainLegal_afterB hs h hb, rfl⟩
  | c =>
    rw [programChannels_indexed (of_decide_eq_true (hasChan_of_busy h.programmed hb))] at hpace
    obtain ⟨v, q, hplo⟩ := dreqOk_plo.1 hpace
    cases (agentTurn_c hc h hb hplo).symm.trans hturn
    exact ⟨chainLegal_afterC hc h hb hplo, rfl⟩
  | d =>
    rw [programChannels_indexed (of_decide_eq_true (hasChan_of_busy h.programmed hb))] at hpace
    have hlegal := chainLegal_afterD h hb
    cases (agentTurn_d hc h hb (dreqOk_pf.1 hpace)).symm.trans hturn
    exact ⟨⟨hlegal.programmed, hlegal.runs, hlegal.addresses⟩, rfl⟩

/-! ## The start of the channels -/

/-- Every channel of the mode is programmed, enabled and idle. -/
structure AtRest (s : State) : Prop where
  live : ∀ n, s.cfg.hasChan n = true → Live s n
  idle : ∀ n, (s.chan n).ctrl.busy = false ∧ (s.chan n).remain = 0
  absent : s.cfg.mode = .direct → s.dma.c = .zero ∧ s.dma.d = .zero
  readB : s.dma.b.readAddr = addrLinePtr s.cfg

/-- The channels when A has been triggered with the live buffer and the loop of C and D armed (R652). -/
def startedChannels (s : State) : Channels :=
  match s.cfg.mode with
  | .direct => { s.dma with a := triggered s.dma.a s.regs.liveBase }
  | .indexed => { s.dma with
      a := triggered s.dma.a s.regs.liveBase
      c := triggered s.dma.c (addrPluOutf s.cfg) }

section
variable {s : State}

theorem AtRest.runLegal (h : AtRest s) (n : ChanId) : RunLegal (s.chan n) := by
  obtain ⟨hb, hr⟩ := h.idle n
  simp [RunLegal, hb, hr]

theorem startChannels_of_rest (hc : s.cfg.wf = true) (h : AtRest s) :
    startChannels s = .ok { s with dma := startedChannels s } := by
  have fire : ∀ {u : State} (n : ChanId) (v : Word), s.cfg.hasChan n = true → u.chan n = s.chan n →
      trigger n v u = .ok (u.setChan n (triggered (s.chan n) v)) := by
    intro u n v hn hu
    have hlive := h.live n hn
    have hcount := hlive.transCount_ne_zero hc hn
    have hidle := (h.idle n).1
    obtain ⟨-, hen⟩ := hlive
    rw [← hu] at hcount hidle hen ⊢
    exact trigger_of_idle v hidle hen hcount
  rw [startChannels, fire .a _ rfl rfl, startedChannels]
  cases hm : s.cfg.mode with
  | direct => rfl
  | indexed => exact fire .c _ (decide_eq_true hm) rfl

/-- The chain is legal once its channels have been started and the block runs. -/
theorem chainLegal_started {r : Regs} (hc : s.cfg.wf = true) (hlive : s.cfg.bufferOk s.regs.liveBase = true)
    (h : AtRest s) (hplo : s.plu.plo.all (fun w => decide (WordsInRam s.cfg w 1)) = true) (hrun : r.run = true) :
    ChainLegal { s with dma := startedChannels s, regs := r } := by
  have hA : Live s .a := h.live .a rfl
  have hidle : ∀ n, (s.chan n).ctrl.busy ≠ true := fun n => Bool.eq_false_iff.1 (h.idle n).1
  have hzero : ∀ n, (s.chan n).remain.toNat ≤ 1 := fun n => by rw [(h.idle n).2]; decide
  have hrunA : RunLegal (triggered (s.chan .a) s.regs.liveBase) :=
    runLegal_triggered _ hA.2 (hA.transCount_ne_zero hc rfl)
  have hwords : (triggered (s.chan .a) s.regs.liveBase).ctrl.busy = true → WordsInRam s.cfg s.regs.liveBase
      (triggered (s.chan .a) s.regs.liveBase).remain.toNat := by
    intro hbusy
    rw [lineWords_of_triggered hc hA (of_decide_eq_true hbusy)]
    obtain ⟨-, -, hheight, -⟩ := wf_sizes hc
    simpa [StateRules.rowPointer_zero hc] using rowPointer_wordsInRam hc hlive (r := 0) hheight
  cases hm : s.cfg.mode with
  | direct =>
    simp only [startedChannels, hm]
    refine ⟨channelsProgrammed_of_live hrun (fun n hn => ?_) h.absent h.readB
        (fun hi => absurd (hm.symm.trans hi) (by decide)),
      ⟨hrunA, h.runLegal .b, h.runLegal .c, h.runLegal .d, hzero .b, hzero .c, hzero .d,
        fun hboth => hidle .b hboth.2, fun hboth => hidle .c hboth.1⟩,
      ⟨hwords, fun hbusy => absurd hbusy (hidle .d), hplo⟩⟩
    cases n <;> exact h.live _ hn
  | indexed =>
    have hchan : s.cfg.hasChan .c = true := decide_eq_true hm
    have hC := h.live .c hchan
    have hleC : (triggered (s.chan .c) (addrPluOutf s.cfg)).remain.toNat ≤ 1 := by
      rw [triggered_of_transCount _ (transCount_c hm hC)]
      simp only []
      split <;> decide
    simp only [startedChannels, hm]
    refine ⟨channelsProgrammed_of_live hrun (fun n hn => ?_) (fun hd => absurd (hd.symm.trans hm) (by decide)) h.readB
        (fun _ => rfl),
      ⟨hrunA, h.runLegal .b, runLegal_triggered _ hC.2 (hC.transCount_ne_zero hc hchan), h.runLegal .d, hzero .b,
        hleC, hzero .d, fun hboth => hidle .b hboth.2, fun hboth => hidle .d hboth.2⟩,
      ⟨hwords, fun hbusy => absurd hbusy (hidle .d), hplo⟩⟩
    cases n <;> exact h.live _ hn

/-! ### The frame transition -/

/-- All four channels, at rest. -/
def idleChannels (d : Channels) : Channels := ⟨d.a.idle, d.b.idle, d.c.idle, d.d.idle⟩

theorem frameQuiesce_dma (h : s.cfg.mode = .direct → s.dma.c = .zero ∧ s.dma.d = .zero) :
    (frameQuiesce s).dma = idleChannels s.dma := by
  unfold frameQuiesce
  cases hm : s.cfg.mode with
  | direct =>
    obtain ⟨hc, hd⟩ := h hm
    change (⟨s.dma.a.idle, s.dma.b.idle, s.dma.c, s.dma.d⟩ : Channels) = idleChannels s.dma
    rw [idleChannels, hc, hd]
    rfl
  | indexed => rfl

theorem frameQuiesce_plo {p : Word → Bool} (h : s.plu.plo.all p = true) :
    (frameQuiesce s).plu.plo.all p = true := by
  unfold frameQuiesce
  simp only []
  split
  · exact h
  · rfl

/-- The aborts of a frame transition put a running chain to rest (R615). -/
theorem atRest_of_idleChannels {t : State} (h : ChannelsProgrammed s) (hrun : s.regs.run = true)
    (hcfg : t.cfg = s.cfg) (hdma : t.dma = idleChannels s.dma) : AtRest t := by
  obtain ⟨habsent, hreadB, -⟩ := reads_of_run h hrun
  have hchan : ∀ n, t.chan n = (s.chan n).idle := by
    intro n
    rw [State.chan, hdma]
    cases n <;> rfl
  constructor
  case live =>
    intro n hn
    rw [Live, hchan, hcfg]
    rw [hcfg] at hn
    exact live_of_run h hrun hn
  case idle =>
    intro n
    rw [hchan]
    exact ⟨rfl, rfl⟩
  case absent =>
    intro hm
    rw [hcfg] at hm
    obtain ⟨hc, hd⟩ := habsent hm
    rw [hdma, idleChannels, hc, hd]
    exact ⟨rfl, rfl⟩
  case readB =>
    rw [hdma, hcfg]
    exact hreadB

/-- The state in which a frame transition starts the channels: everything at rest, the live buffer published. -/
def frameStart (s : State) : State :=
  let u := frameQuiesce { s with regs := s.regs.takeFrame }
  { u with regs := { u.regs with linePtr := u.regs.liveBase } }

theorem frameTransition_of_start {u : State} (h : startChannels (frameStart s) = .ok u) :
    frameTransition s = .ok { u with regs := { u.regs with vsWait := false } } := by
  simp only [frameStart] at h
  simp only [frameTransition, h]

theorem frameStart_cfg (s : State) : (frameStart s).cfg = s.cfg := frameQuiesce_cfg _

theorem frameStart_regs (s : State) :
    (frameStart s).regs = { s.regs.takeFrame with linePtr := s.regs.takeFrame.liveBase } := by
  simp only [frameStart, frameQuiesce_regs]

theorem frameTransition_keepsChain {t : State} (hs : ScanLegal s) (h : ChainLegal s) (hrun : s.regs.run = true)
    (ht : frameTransition s = .ok t) : KeepsChain s t := by
  have hlive := StateRules.takeFrame_liveBase_ok hs
  obtain ⟨hc, -⟩ := hs
  obtain ⟨habsent, -⟩ := reads_of_run h.programmed hrun
  obtain ⟨-, -, hplo⟩ := h.addresses
  have hrest : AtRest (frameStart s) :=
    atRest_of_idleChannels h.programmed hrun (frameStart_cfg s) (frameQuiesce_dma habsent)
  have hplo' : (frameStart s).plu.plo.all (fun w => decide (WordsInRam (frameStart s).cfg w 1)) = true := by
    rw [frameStart_cfg]
    exact frameQuiesce_plo hplo
  rw [← frameStart_cfg s] at hc hlive
  rw [frameTransition_of_start (startChannels_of_rest hc hrest)] at ht
  cases ht
  have hregs := frameStart_regs s
  refine ⟨chainLegal_started hc ?_ hrest hplo' ?_, ?_⟩
  · rw [hregs]
    exact hlive
  · rw [hregs]
    exact hrun
  · simp only [dmaFaults, hregs]
    rfl

theorem dispStep_keepsChain {t : State} (hs : ScanLegal s) (h : ChainLegal s) (hrun : s.regs.run = true)
    (ht : dispStep s = .ok t) : KeepsChain s t := by
  simp only [dispStep] at ht
  split at ht
  · exact frameTransition_keepsChain hs h hrun ht
  · cases ht
    exact .of_chainPart_eq rfl h

/-! ### `INIT` and `TEARDOWN` -/

/-- `INIT` leaves each channel of the mode enabled (`CTRL` of R640, R650), and every channel idle. -/
theorem program_flags (c : Config) (n : ChanId) :
    (c.hasChan n = true → ((programChannels c).get n).ctrl.en = true) ∧
    ((programChannels c).get n).ctrl.busy = false ∧ ((programChannels c).get n).remain = 0 := by
  cases n with
  | a => cases hm : c.mode <;> simp [programChannels, Channels.get, programA, hm]
  | b => exact ⟨fun _ => rfl, rfl, rfl⟩
  | c => cases hm : c.mode <;> simp [programChannels, Channels.get, programC, Channel.zero, Config.hasChan, hm]
  | d => cases hm : c.mode <;> simp [programChannels, Channels.get, programD, Channel.zero, Config.hasChan, hm]

theorem atRest_of_program {t : State} (hdma : t.dma = programChannels t.cfg) : AtRest t := by
  have hchan : ∀ n, t.chan n = (programChannels t.cfg).get n := fun n => by rw [State.chan, hdma]
  constructor
  case live =>
    intro n hn
    obtain ⟨hen, hidle, -⟩ := program_flags t.cfg n
    rw [Live, hchan]
    exact ⟨⟨rfl, rfl, by rw [← hen hn, ← hidle]⟩, hen hn⟩
  case idle =>
    intro n
    rw [hchan]
    exact (program_flags t.cfg n).2
  case absent =>
    intro hm
    simp only [hdma, programChannels, hm]
    exact ⟨trivial, trivial⟩
  case readB =>
    rw [hdma]
    rfl

/-- The state in which `INIT` starts the channels (`46_host_commands.md` R810). -/
def initStart (s : State) : State :=
  { s with
    dma := programChannels s.cfg
    tseq := { s.tseq with phase := 0, row := 0 }
    tgen := { s.tgen with tq := [], word := 0, remain := 0, en := false }
    pump := { s.pump.forceEntry with en := true }
    plu := match s.cfg.mode with
      | .direct => s.plu
      | .indexed => { s.plu.reset with en := true }
    regs := { s.regs with
      lineF := false
      frameF := false
      startF := false
      displayRow := 0
      linePtr := s.regs.liveBase } }

theorem initBlock_of_start {u : State} (h : startChannels (initStart s) = .ok u) :
    initBlock s = .ok { u with
      regs := { u.regs with lineE := true, frameE := true, run := true }
      tseq := { u.tseq with en := true } } := by
  simp only [initBlock]
  split
  · rename_i r hr
    cases h.symm.trans hr
  · rename_i v hv
    cases h.symm.trans hv
    rfl

theorem initBlock_keepsChain {t : State} (hs : ScanLegal s) (h : ChainLegal s) (ht : initBlock s = .ok t) :
    KeepsChain s t := by
  obtain ⟨hc, -, -, hlive, -⟩ := hs
  obtain ⟨-, -, hplo⟩ := h.addresses
  have hrest : AtRest (initStart s) := atRest_of_program rfl
  have hplo' : (initStart s).plu.plo.all (fun w => decide (WordsInRam (initStart s).cfg w 1)) = true := by
    simp only [initStart]
    split
    · exact hplo
    · rfl
  rw [initBlock_of_start (startChannels_of_rest (s := initStart s) hc hrest)] at ht
  cases ht
  have hlegal := chainLegal_started (s := initStart s)
    (r := { (initStart s).regs with lineE := true, frameE := true, run := true }) hc hlive hrest hplo' rfl
  exact ⟨⟨hlegal.programmed, hlegal.runs, hlegal.addresses⟩, rfl⟩

theorem execInit_keepsChain {t : State} (hs : ScanLegal s) (h : ChainLegal s) (ht : execInit s = .next t) :
    KeepsChain s t := by
  simp only [execInit] at ht
  split at ht
  · cases ht
    exact .of_chainPart_eq (refuse_chainPart s).1 h
  · split at ht
    · cases ht
    · rename_i u hinit
      cases ht
      split
      · exact initBlock_keepsChain (s := drawn s) hs ⟨h.programmed, h.runs, h.addresses⟩ hinit
      · exact .of_chainPart_eq (raise_chainPart (c := .initFail) (by decide) (drawn s)) h

theorem channelLegal_disabled {run : Bool} {x p : Channel} (h : ChannelLegal run x p) :
    ChannelLegal false x.disabled p := by
  rcases h with ⟨rfl, -⟩ | ⟨hprog, -⟩
  · exact .inl ⟨rfl, rfl⟩
  · exact .inr ⟨hprog, rfl⟩

theorem readsFrom_disabled {x : Channel} {a : Word} (h : ReadsFrom x a) : ReadsFrom x.disabled a := by
  rcases h with rfl | ha
  · exact .inl rfl
  · exact .inr ha

theorem runLegal_disabled (x : Channel) : RunLegal x.disabled := by
  simp [RunLegal, Channel.disabled, Channel.idle]

/-- A channel the mode does not have is at reset, where disabling it changes nothing. -/
theorem ite_disabled {c : Config} {x : Channel} {n : ChanId} (h : c.mode = .direct → x = .zero)
    (hn : n = .c ∨ n = .d) : (if c.hasChan n then x.disabled else x) = x.disabled := by
  cases hm : c.mode with
  | direct => rw [h hm]; split <;> rfl
  | indexed => rcases hn with rfl | rfl <;> simp [Config.hasChan, hm]

/-- `TEARDOWN` ends every run and disables every channel there is (`46_host_commands.md` R815). -/
theorem execTeardown_keepsChain {t : State} (h : ChainLegal s) (ht : execTeardown s = .next t) :
    KeepsChain s t := by
  cases ht
  obtain ⟨hA, hB, hC, hD, habsent, hreadB, hreadC⟩ := h.programmed
  obtain ⟨-, -, hplo⟩ := h.addresses
  have hc : (if s.cfg.hasChan .c then s.dma.c.disabled else s.dma.c) = s.dma.c.disabled :=
    ite_disabled (fun hm => (habsent hm).1) (.inl rfl)
  have hd : (if s.cfg.hasChan .d then s.dma.d.disabled else s.dma.d) = s.dma.d.disabled :=
    ite_disabled (fun hm => (habsent hm).2) (.inr rfl)
  rw [hc, hd]
  refine ⟨⟨⟨channelLegal_disabled hA, channelLegal_disabled hB, fun hm => channelLegal_disabled (hC hm),
      fun hm => channelLegal_disabled (hD hm), fun hm => by rw [(habsent hm).1, (habsent hm).2]; exact ⟨rfl, rfl⟩,
      readsFrom_disabled hreadB, readsFrom_disabled hreadC⟩,
    ⟨runLegal_disabled _, runLegal_disabled _, runLegal_disabled _, runLegal_disabled _, Nat.zero_le _, Nat.zero_le _,
      Nat.zero_le _, fun hboth => Bool.false_ne_true hboth.1, fun hboth => Bool.false_ne_true hboth.1⟩,
    ⟨fun hbusy => absurd hbusy Bool.false_ne_true, fun hbusy => absurd hbusy Bool.false_ne_true, ?_⟩⟩, rfl⟩
  simp only []
  split
  · exact hplo
  · rfl

end

/-! ## The step keeps the chain legal -/

theorem exec_keepsChain {i : Instr} {s t : State} (ht : exec i s = .next t) (hs : ScanLegal s) (h : ChainLegal s) :
    KeepsChain s t := by
  have kept : chainPart t = chainPart s → KeepsChain s t := fun hpart => .of_chainPart_eq hpart h
  cases i with
  | twNone count hs' vs => cases ht; exact kept (wordTick_chainPart ..)
  | twLineReady count hs' vs => cases ht; exact kept (wordTick_chainPart ..)
  | twNextLine count hs' vs => cases ht; exact kept (wordTick_chainPart ..)
  | twFrameReady count hs' vs => cases ht; exact kept (wordTick_chainPart ..)
  | init => exact execInit_keepsChain hs h ht
  | teardown => exact execTeardown_keepsChain h ht
  | setFramebuffer base => exact kept (execSetFramebuffer_chainPart ht)
  | waitVsync => cases ht; exact kept (setWait_chainPart s _)
  | setPalette index colour => exact kept (execSetPalette_chainPart ht)
  | setBacklight brightness => exact kept (execSetBacklight_chainPart ht)
  | update src layers pal => exact kept (execUpdate_chainPart ht)
  | partialUpdate src layers x y w h' => exact kept (execPartialUpdate_chainPart ht)

theorem issue_keepsChain {r : Request} {p : Producer} {s t : State} (ht : issue r p s = .next t)
    (hs : ScanLegal s) (h : ChainLegal s) : KeepsChain s t := by
  cases r with
  | command c =>
    simp only [issue] at ht
    split at ht
    · exact exec_keepsChain ht hs h
    · cases ht
      exact .of_chainPart_eq (refuse_chainPart s).1 h
  | load a z =>
    simp only [issue] at ht
    split at ht
    · cases ht
    · cases ht
      exact .of_chainPart_eq rfl h
  | store a z v => exact .of_chainPart_eq (producerStore_chainPart (outcomeOf_next ht)) h

theorem producerStep_keepsChain {n : Nat} {s t : State} (ht : producerStep n s = .next t) (hs : ScanLegal s)
    (h : ChainLegal s) : KeepsChain s t := by
  rcases producerStep_next ht with rfl | ⟨p, r, q, -, -, -, hissue⟩ | ⟨p, -, -, hcmd⟩
  · exact .of_chainPart_eq rfl h
  · have hlegal : ChainLegal ((s.withActor n).setProducer n { p with queue := q }) :=
      ⟨h.programmed, h.runs, h.addresses⟩
    obtain ⟨hchain, hfaults⟩ := issue_keepsChain hissue hs hlegal
    exact ⟨hchain, hfaults⟩
  · have hpart : chainPart t = chainPart (s.withActor n) := cmdStep_chainPart hcmd
    exact .of_chainPart_eq hpart h

theorem agentTurn_keepsChain {a : Agent} {s t : State} (ht : agentTurn a s = .next t) (hs : ScanLegal s)
    (h : ChainLegal s) : KeepsChain s t := by
  rcases agentTurn_next ht with ⟨-, rfl⟩ | ⟨he, hrun⟩
  · exact .of_chainPart_eq rfl h
  · cases a with
    | tseq => cases hrun; exact .of_chainPart_eq rfl h
    | tgenStart => cases hrun; exact .of_chainPart_eq rfl h
    | tick => exact .of_chainPart_eq (tickStep_chainPart hrun) h
    | plu =>
      cases hrun
      obtain ⟨hc, -⟩ := hs
      exact pluStep_keepsChain hc he h
    | dma n => exact dmaTurn_keepsChain hs h he ht
    | disp => exact dispStep_keepsChain hs h (SharedState.dispEnabled_run he) (outcomeOf_next hrun)
    | producer n => exact producerStep_keepsChain hrun hs h

/-- Settles O55: a run is handed from A to B and from C to D and back, so no channel is triggered while it runs; the
pacing has found room or a word; and every address read is a row's, an entry's or a fixed register's. -/
theorem stepKeepsChainLegal : Obligations.StepKeepsChainLegal := by
  intro s t hs h ht
  obtain ⟨-, hturn⟩ := step_next ht
  exact agentTurn_keepsChain (s := takeTurn s) hturn hs ⟨h.programmed, h.runs, h.addresses⟩
end Sys2Proof.DmaChain
end

section
/-! The statements of `45_dispatcher.md`: when DISP moves and which event it takes first (R700), and the state that
each of its two transitions leaves (R710, R720). -/

namespace Sys2Proof.DispatcherSteps

open Sys2Proof Sys2Proof.Machine Sys2Proof.Safety Sys2Proof.Laws Sys2Proof.DmaChain

/-! ## When DISP moves -/

theorem enabled_disp_iff (s : State) :
    enabled .disp s = true ↔ s.regs.run = true ∧ (framePending s = true ∨ linePending s = true) := by
  simp only [enabled, dispEnabled, Bool.and_eq_true, Bool.or_eq_true]

theorem linePending_iff (s : State) :
    linePending s = true ↔ s.regs.lineF = true ∧ s.regs.lineE = true := by
  simp only [linePending, Bool.and_eq_true]

/-- The turn of a running DISP with a frame event, whether or not a line event is pending too. -/
theorem agentTurn_disp_frame {s : State} (hrun : s.regs.run = true) (hframe : framePending s = true) :
    agentTurn .disp s = outcomeOf (frameTransition s) := by
  rw [Scope.agentTurn_enabled ((enabled_disp_iff s).2 ⟨hrun, .inl hframe⟩), runAgent, dispStep, if_pos hframe]

/-- The turn of a running DISP with a line event only. -/
theorem agentTurn_disp_line {s : State} (hrun : s.regs.run = true) (hline : linePending s = true)
    (hframe : ¬framePending s = true) : agentTurn .disp s = .next (lineTransition s) := by
  rw [Scope.agentTurn_enabled ((enabled_disp_iff s).2 ⟨hrun, .inr hline⟩), runAgent, dispStep, if_neg hframe]
  rfl

/-- Settles O34: the frame transition writes neither `RUN`, `LINE_F` nor the enable bits, so the line event keeps
DISP enabled. -/
theorem frameEventComesFirst : Obligations.FrameEventComesFirst := by
  constructor
  · intro s
    rw [enabled_disp_iff, MemoryRules.framePending_iff, linePending_iff]
  · intro s t hrun hframeF hframeE hlineF hlineE hturn
    have hframe : framePending s = true := (MemoryRules.framePending_iff s).2 ⟨hframeF, hframeE⟩
    rw [agentTurn_disp_frame hrun hframe] at hturn
    obtain ⟨-, hregs⟩ := SharedState.frameTransition_frame (outcomeOf_next hturn)
    have hrun' : t.regs.run = true := by rw [hregs]; exact hrun
    have hlineF' : t.regs.lineF = true := by rw [hregs]; exact hlineF
    have hlineE' : t.regs.lineE = true := by rw [hregs]; exact hlineE
    refine ⟨?_, hlineF', ?_, (enabled_disp_iff t).2 ⟨hrun', .inr ((linePending_iff t).2 ⟨hlineF', hlineE'⟩)⟩⟩
    all_goals rw [hregs]; rfl

/-! ## The line transition -/

theorem nextDisplayRow_toNat {c : Config} (hheight : c.height < 2 ^ 16) (r : BitVec 16) :
    (nextDisplayRow c r).toNat = min (r.toNat + 1) c.height := by
  rw [nextDisplayRow, BitVec.toNat_ofNat, Nat.mod_eq_of_lt (lt_of_le_of_lt (min_le_right _ _) hheight)]

theorem rowPointer_eq_div (c : Config) (live : Word) (r : Nat) :
    rowPointer c live r =
      if r = c.height then 0 else live + BitVec.ofNat 32 (c.stride * (r / 2 ^ c.rowShift.toNat)) := by
  rw [rowPointer, offset, Nat.shiftRight_eq_div_pow]

/-- Settles O32: `HEIGHT` fits `display_row`, so the saturated row is not cut off. -/
theorem lineTransitionPublishesTheNextRow : Obligations.LineTransitionPublishesTheNextRow := by
  intro s hc hrun hlineF hlineE hno
  have hline : linePending s = true := (linePending_iff s).2 ⟨hlineF, hlineE⟩
  obtain ⟨-, -, -, hheight, -⟩ := wf_sizes hc
  exact ⟨lineTransition s, agentTurn_disp_line hrun hline (mt (MemoryRules.framePending_iff s).1 hno), rfl,
    nextDisplayRow_toNat hheight _, rowPointer_eq_div _ _ _⟩

/-! ## The frame transition -/

section
variable {s : State}

/-- The engines a frame transition puts to rest, and nothing else. -/
theorem frameQuiesce_eq (habsent : s.cfg.mode = .direct → s.dma.c = .zero ∧ s.dma.d = .zero) :
    frameQuiesce s = { s with
      pump := { s.pump.forceEntry with en := true }
      plu := if s.cfg.mode = .indexed then s.plu.reset else s.plu
      dma := idleChannels s.dma } := by
  rw [← frameQuiesce_dma habsent]
  unfold frameQuiesce
  cases hm : s.cfg.mode <;> rfl

/-- The aborts of a frame transition leave a chain that is ready to be started (R615). -/
theorem atRest_frameStart (h : ChainLegal s) (hrun : s.regs.run = true) : AtRest (frameStart s) := by
  obtain ⟨habsent, -⟩ := reads_of_run h.programmed hrun
  exact atRest_of_idleChannels h.programmed hrun (frameStart_cfg s) (frameQuiesce_dma habsent)

/-- A frame transition of a legal, running chain starts it without a fault. -/
theorem frameTransition_of_chainLegal (hc : s.cfg.wf = true) (h : ChainLegal s) (hrun : s.regs.run = true) :
    frameTransition s = .ok { frameStart s with
      dma := startedChannels (frameStart s)
      regs := SharedState.frameRegs s.regs } := by
  have hc' : (frameStart s).cfg.wf = true := by rwa [frameStart_cfg]
  rw [frameTransition_of_start (startChannels_of_rest hc' (atRest_frameStart h hrun)), frameStart_regs]
  rfl

/-- A's run is one row of the live buffer, or none for a null buffer; C, in indexed mode, runs for one transfer
from the port it reads already (R652). -/
theorem startedChannels_frameStart (hc : s.cfg.wf = true) (h : ChainLegal s) (hrun : s.regs.run = true) :
    startedChannels (frameStart s) =
      { a := { s.dma.a with
          readAddr := s.regs.takeFrame.liveBase
          ctrl := { s.dma.a.ctrl with busy := decide (s.regs.takeFrame.liveBase ≠ 0) }
          remain := if s.regs.takeFrame.liveBase = 0 then 0 else BitVec.ofNat 32 s.cfg.lineWords }
        b := s.dma.b.idle
        c := if s.cfg.mode = .indexed then
            { s.dma.c with ctrl := { s.dma.c.ctrl with busy := true }, remain := 1 }
          else s.dma.c
        d := if s.cfg.mode = .indexed then s.dma.d.idle else s.dma.d } := by
  obtain ⟨habsent, -, hreadC⟩ := reads_of_run h.programmed hrun
  have hcountA : s.dma.a.idle.transCount = BitVec.ofNat 32 s.cfg.lineWords :=
    (live_of_run h.programmed hrun (n := .a) rfl).transCount
  have hdma : (frameStart s).dma = idleChannels s.dma := frameQuiesce_dma habsent
  have hliveBase : (frameStart s).regs.liveBase = s.regs.takeFrame.liveBase := by rw [frameStart_regs]
  simp only [startedChannels, frameStart_cfg, hdma, hliveBase, idleChannels, triggered_of_transCount _ hcountA]
  cases hm : s.cfg.mode with
  | direct =>
    obtain ⟨hzeroC, hzeroD⟩ := habsent hm
    rw [hzeroC, hzeroD]
    rfl
  | indexed =>
    have hcountC : s.dma.c.idle.transCount = 1 :=
      transCount_c hm (live_of_run h.programmed hrun (decide_eq_true hm))
    have hstartC : triggered s.dma.c.idle (addrPluOutf s.cfg) =
        { s.dma.c with ctrl := { s.dma.c.ctrl with busy := true }, remain := 1 } := by
      rw [triggered_of_ne _ (addrPluOutf_ne_zero hc), started_of_transCount _ hcountC, ← hreadC hm]
      rfl
    rw [hstartC]
    rfl

end

/-- Settles O31: the channels restart as `startedChannels_frameStart` says, and the engines stay as the quiesce left
them. -/
theorem frameTransitionSwapsAndRestarts : Obligations.FrameTransitionSwapsAndRestarts := by
  rintro s ⟨hc, -⟩ h hrun hframeF hframeE
  have hframe : framePending s = true := (MemoryRules.framePending_iff s).2 ⟨hframeF, hframeE⟩
  obtain ⟨habsent, -⟩ := reads_of_run h.programmed hrun
  have hquiesce := frameQuiesce_eq (s := { s with regs := s.regs.takeFrame }) habsent
  rw [agentTurn_disp_frame hrun hframe, frameTransition_of_chainLegal hc h hrun,
    startedChannels_frameStart hc h hrun, frameStart, hquiesce]
  rfl

end Sys2Proof.DispatcherSteps
end

section
/-! What a producer's step can do, said once: the effects an issued request may have, and the next command state of
a producer in the middle of a command (`46_host_commands.md` R800). -/

namespace Sys2Proof.CommandForms

open Sys2Proof Sys2Proof.Machine Sys2Proof.Safety Sys2Proof.Laws

/-! ## The checks of the commands -/

theorem bufBytes_pos {c : Config} (hc : c.wf = true) : 0 < c.bufBytes := by
  obtain ⟨-, -, -, -, -, -, -, hpos, hle, -⟩ := wf_sizes hc
  omega

/-- A source (R870) lies, word-aligned, in RAM with all its layers. -/
theorem sourceOk_iff (c : Config) (src : Word) (n : Nat) :
    sourceOk c src n = true ↔
      src.toNat % 4 = 0 ∧ c.ramBase.toNat ≤ src.toNat ∧ src.toNat + n * c.bufBytes ≤ c.ramEnd := by
  simp [sourceOk, inRam_iff]

/-- A source of one layer is checked as a buffer is (R880). -/
theorem sourceOk_one (c : Config) (src : Word) : sourceOk c src 1 = c.bufferOk src := by
  rw [sourceOk, Config.bufferOk, Nat.one_mul]

theorem sourcePaletteOk_iff (c : Config) (sp : Word) :
    sourcePaletteOk c sp = true ↔
      sp.toNat % 4 = 0 ∧ c.ramBase.toNat ≤ sp.toNat ∧ sp.toNat + 1024 ≤ c.ramEnd := by
  simp [sourcePaletteOk, inRam_iff]

theorem updateArgsOk_iff (c : Config) (src : Word) (n : Nat) (sp : Word) :
    updateArgsOk c src n sp = true ↔
      n ≠ 0 ∧ sourceOk c src n = true ∧ (c.mode = .indexed → sourcePaletteOk c sp = true) := by
  cases hm : c.mode <;> simp [updateArgsOk, hm, and_assoc]

theorem regionOk_iff (c : Config) (x y w h : Nat) :
    regionOk c x y w h = true ↔ x + w ≤ c.width ∧ y + h ≤ c.bufRows := by
  simp [regionOk]

/-! ## An issued request -/

/-- What a request issued by a producer whose entry is `p` may do. -/
inductive Issued (p : Producer) (s : State) : State → Prop
  | nothing : Issued p s s
  | refused (c : Code) : Issued p s (refuse c s)
  /-- A tick, which only a timing word runs. -/
  | ticked (t : Trig) (count : BitVec 16) (hs vs : Bool) : Issued p s (wordTick t count hs vs s)
  | initialised {t : State} (h : initBlock (drawn s) = .ok t) : Issued p s t
  | initFailed : Issued p s (fatalStop (drawn s))
  | tornDown {t : State} (h : execTeardown s = .next t) : Issued p s t
  | published (b : Word) : Issued p s { s with regs := { s.regs with pendAddr := b, pendValid := true } }
  | stored (a : Word) (z : Size) (v : Word) : Issued p s { s with mem := memWrite s.mem a z v }
  | dimmed (b : Nat) (hb : b ≤ 255) :
    Issued p s { s with regs := { s.regs with blDuty := backlightDuty s.cfg b } }
  /-- The first step of a longer command, which may set the vsync flag. -/
  | begun (wait : Bool) (c : Cmd) (hc : ScanLegal s → CmdLegal s.cfg c) :
    Issued p s (State.setCmd { s with regs := { s.regs with vsWait := wait } } c)
  | loaded (v : Word) : Issued p s (s.setProducer s.env.actor { p with loaded := v })

section
variable {p : Producer} {s t : State}

theorem producerStore_issued {a : Word} {z : Size} {v : Word} (h : producerStore s a z v = .ok t) :
    Issued p s t := by
  obtain ⟨-, -, rfl⟩ := producerStore_ok h
  exact .stored a z v

theorem execInit_issued (h : execInit s = .next t) : Issued p s t := by
  simp only [execInit] at h
  split at h
  · cases h
    exact .refused .unsupported
  · split at h
    · cases h
    · rename_i hinit
      cases h
      split
      · exact .initialised hinit
      · exact .initFailed

theorem execSetFramebuffer_issued {b : Word} (h : execSetFramebuffer b s = .next t) : Issued p s t := by
  simp only [execSetFramebuffer] at h
  split at h
  · cases h
    exact .published b
  · cases h
    exact .refused .argRange

theorem execSetPalette_issued {i c : Word} (h : execSetPalette i c s = .next t) : Issued p s t := by
  simp only [execSetPalette] at h
  split_ifs at h
  · cases h
    exact .refused .unsupported
  · cases h
    exact .refused .argRange
  · exact producerStore_issued (outcomeOf_next h)

theorem execSetBacklight_issued {b : Word} (h : execSetBacklight b s = .next t) : Issued p s t := by
  simp only [execSetBacklight] at h
  split at h
  · cases h
    exact .refused .argRange
  · rename_i hb
    cases h
    exact .dimmed b.toNat (Nat.le_of_not_lt hb)

/-- An `UPDATE` begins with arguments that passed its checks (R870), and in direct mode with the live buffer. -/
theorem execUpdate_issued {src layers pal : Word} (h : execUpdate src layers pal s = .next t) :
    Issued p s t := by
  simp only [execUpdate] at h
  split at h
  · cases h
    exact .refused .argRange
  · rename_i hargs
    obtain ⟨hn, hsrc, hpal⟩ := (updateArgsOk_iff ..).1 (Bool.eq_true_of_not_eq_false hargs)
    split at h
    · rename_i hm
      cases h
      refine .begun s.regs.vsWait _ fun hs => ?_
      obtain ⟨hc, -, -, hlive, -⟩ := hs
      exact ⟨hm, hn, hsrc, hlive, rfl, bufBytes_pos hc⟩
    · rename_i hm
      cases h
      exact .begun true _ fun _ => ⟨hm, hn, hsrc, hpal hm⟩

/-- A `PARTIAL_UPDATE` begins at the corner of a region that is not empty (R880). -/
theorem execPartialUpdate_issued {src layers : Word} {x y w n : BitVec 16}
    (h : execPartialUpdate src layers x y w n s = .next t) : Issued p s t := by
  simp only [execPartialUpdate] at h
  split_ifs at h with hone hsrc hregion hempty
  · cases h
    exact .refused .unsupported
  · cases h
    exact .refused .argRange
  · cases h
    exact .refused .argRange
  · cases h
    exact .nothing
  · cases h
    refine .begun s.regs.vsWait _ fun hs => ?_
    obtain ⟨-, -, -, hlive, -⟩ := hs
    have hw : 0 < w.toNat ∧ 0 < n.toNat := by
      rw [not_or] at hempty
      obtain ⟨hw, hn⟩ := hempty
      constructor <;> bv_omega
    exact ⟨Bool.eq_true_of_not_eq_false hsrc, hlive, Bool.eq_true_of_not_eq_false hregion, Nat.le_refl _, by omega,
      Nat.le_refl _, by omega⟩

theorem exec_issued {i : Instr} (h : exec i s = .next t) : Issued p s t := by
  cases i with
  | twNone count hs vs => cases h; exact .ticked ..
  | twLineReady count hs vs => cases h; exact .ticked ..
  | twNextLine count hs vs => cases h; exact .ticked ..
  | twFrameReady count hs vs => cases h; exact .ticked ..
  | init => exact execInit_issued h
  | teardown => exact .tornDown h
  | setFramebuffer base => exact execSetFramebuffer_issued h
  | waitVsync => cases h; exact .begun true .waitVsync fun _ => trivial
  | setPalette index colour => exact execSetPalette_issued h
  | setBacklight brightness => exact execSetBacklight_issued h
  | update src layers pal => exact execUpdate_issued h
  | partialUpdate src layers x y w h' => exact execPartialUpdate_issued h

theorem issue_issued {r : Request} (h : issue r p s = .next t) : Issued p s t := by
  cases r with
  | command c =>
    simp only [issue] at h
    split at h
    · exact exec_issued h
    · cases h
      exact .refused .unsupported
  | load a z =>
    simp only [issue] at h
    split at h
    · cases h
    · rename_i v _
      cases h
      exact .loaded v
  | store a z v => exact producerStore_issued (outcomeOf_next h)

end

/-! ## The later steps of a command -/

/-- The command state after the next step of a producer in command state `x`. -/
def nextCmd (s : State) (x : Cmd) : Cmd :=
  match x with
  | .idle => .idle
  | .waitVsync => .idle
  | .uRead src n dest cur =>
    if cur < boundary s.cfg s.regs.linePtr dest then .uCopy src n dest cur (boundary s.cfg s.regs.linePtr dest)
    else .uRead src n dest cur
  | .uCopy src n dest cur re => afterCopy s.cfg src n dest (cur + 2) re
  | .uiWait src n pal => .uiPal src n pal 0 0
  | .uiPal src n pal dest i =>
    if i + 1 < 256 then .uiPal src n pal (if i = 0 then s.regs.liveBase else dest) (i + 1)
    else .uiCopy src n (if i = 0 then s.regs.liveBase else dest) 0
  | .uiCopy src n dest o => if o + 1 < s.cfg.bufBytes then .uiCopy src n dest (o + 1) else .idle
  | .pCopy src dest x y w h yy xx => afterPartial src dest x y w h yy xx

section
variable {s t : State}

theorem thenCmd_ok {r : Except Refusal State} {c : Cmd} (h : thenCmd r c = .ok t) :
    ∃ u, r = .ok u ∧ t = u.setCmd c := by
  cases r with
  | error e => cases h
  | ok u =>
    cases h
    exact ⟨u, rfl, rfl⟩

theorem storeThenCmd_ok {a : Word} {z : Size} {v : Word} {c : Cmd} (h : thenCmd (producerStore s a z v) c = .ok t) :
    ∃ m, t = State.setCmd { s with mem := m } c := by
  obtain ⟨u, hu, rfl⟩ := thenCmd_ok h
  obtain ⟨-, -, rfl⟩ := producerStore_ok hu
  exact ⟨_, rfl⟩

theorem copyThenCmd_ok {src dest : Word} {n o : Nat} {c : Cmd} (h : thenCmd (copyPixel s src n dest o) c = .ok t) :
    ∃ m, t = State.setCmd { s with mem := m } c := by
  obtain ⟨u, hu, rfl⟩ := thenCmd_ok h
  obtain ⟨v, -, rfl⟩ := copyPixel_ok hu
  exact ⟨_, rfl⟩

theorem stepURead_eq (s : State) (src : Word) (n : Nat) (dest : Word) (cur : Nat) :
    stepURead src n dest cur s = .ok (s.setCmd (nextCmd s (.uRead src n dest cur))) := by
  simp only [stepURead, nextCmd]
  by_cases h : cur < boundary s.cfg s.regs.linePtr dest
  · rw [if_pos h, if_pos h]
  · rw [if_neg h, if_neg h]

/-- A later step of a command writes memory, and takes the producer to its next command state. -/
theorem cmdStep_ok {x : Cmd} (hx : x ≠ .idle) (h : cmdStep x s = .ok t) :
    ∃ m, t = State.setCmd { s with mem := m } (nextCmd s x) := by
  cases x with
  | idle => exact absurd rfl hx
  | waitVsync => cases h; exact ⟨s.mem, rfl⟩
  | uRead src n dest cur =>
    rw [cmdStep, stepURead_eq] at h
    cases h
    exact ⟨s.mem, rfl⟩
  | uCopy src n dest cur re => exact copyThenCmd_ok h
  | uiWait src n pal => cases h; exact ⟨s.mem, rfl⟩
  | uiPal src n pal dest i =>
    simp only [cmdStep, stepUiPal] at h
    split at h
    · cases h
    · exact storeThenCmd_ok h
  | uiCopy src n dest o => exact copyThenCmd_ok h
  | pCopy src dest x y w h' yy xx =>
    simp only [cmdStep, stepPCopy] at h
    split at h
    · cases h
    · exact storeThenCmd_ok h

end

/-! ## The two steps that start the channels -/

/-- `INIT` prepares the block, starts the channels and then enables it (`46_host_commands.md` R810). -/
theorem initBlock_ok {s t : State} (h : initBlock s = .ok t) :
    ∃ u, startChannels (DmaChain.initStart s) = .ok u ∧ t = { u with
      regs := { u.regs with lineE := true, frameE := true, run := true }
      tseq := { u.tseq with en := true } } := by
  simp only [initBlock] at h
  split at h
  · cases h
  · rename_i u hstart
    cases h
    exact ⟨u, hstart, rfl⟩

/-- A frame transition quiesces the block and starts the channels, and ends the waits (`45_dispatcher.md` R710). -/
theorem frameTransition_ok {s t : State} (h : frameTransition s = .ok t) :
    ∃ u, startChannels (DmaChain.frameStart s) = .ok u ∧ t = { u with regs := { u.regs with vsWait := false } } := by
  simp only [frameTransition] at h
  split at h
  · cases h
  · rename_i u hstart
    cases h
    exact ⟨u, hstart, rfl⟩

end Sys2Proof.CommandForms
end

section
/-! What only the host commands write: the enables, the backlight duty, the producers' entries and, in direct mode,
the absent PLU (`46_host_commands.md` R810, R815, R860). The agents of the block leave all of it, but that TGEN's
start and the frame transition enable an engine of a block that runs. -/

namespace Sys2Proof.ControlState

open Sys2Proof Sys2Proof.Machine Sys2Proof.Safety Sys2Proof.Laws Sys2Proof.CommandForms

/-- What only the host commands write, but for the PLU of direct mode. -/
structure Controls where
  cfg : Config
  producers : List Producer
  tseq : Bool
  tgen : Bool
  pump : Bool
  plu : Bool
  pluN : BitVec 3
  run : Bool
  lineE : Bool
  frameE : Bool
  blDuty : Word

/-- The controls as they stand in a state. -/
def controls (s : State) : Controls where
  cfg := s.cfg
  producers := s.producers
  tseq := s.tseq.en
  tgen := s.tgen.en
  pump := s.pump.en
  plu := s.plu.en
  pluN := s.plu.n
  run := s.regs.run
  lineE := s.regs.lineE
  frameE := s.regs.frameE
  blDuty := s.regs.blDuty

/-- The controls stay, and so does all of a PLU that does not exist. -/
structure ControlsKept (s t : State) : Prop where
  same : controls t = controls s
  absent : s.cfg.mode = .direct → t.plu = s.plu

section
variable {s u t : State}

theorem ControlsKept.refl (s : State) : ControlsKept s s := ⟨rfl, fun _ => rfl⟩

theorem ControlsKept.cfg (h : ControlsKept s t) : t.cfg = s.cfg := congrArg Controls.cfg h.same

theorem ControlsKept.producers (h : ControlsKept s t) : t.producers = s.producers :=
  congrArg Controls.producers h.same

theorem ControlsKept.trans (h : ControlsKept s u) (k : ControlsKept u t) : ControlsKept s t :=
  ⟨k.same.trans h.same, fun hm => (k.absent (by rwa [h.cfg])).trans (h.absent hm)⟩

/-- The controls are among what `EnginesKept` keeps, where no register but `STATUS` moves. -/
theorem controlsKept_of_enginesKept (h : PixelPump.EnginesKept s t)
    (hregs : SharedState.StatusOnly s.regs t.regs) (hps : t.producers = s.producers)
    (habsent : s.cfg.mode = .direct → t.plu = s.plu) : ControlsKept s t := by
  rw [SharedState.StatusOnly] at hregs
  exact ⟨by rw [controls, h.cfg, hps, h.tseq, h.tgen, h.pump, h.plu, hregs, controls], habsent⟩

theorem ControlsKept.enginesLegal (h : ControlsKept s t) (hs : EnginesLegal s) : EnginesLegal t := by
  obtain ⟨htseq, hpump, hline, hframe, htgen, hplu, hn, habsent⟩ := hs
  have hkept := h.same
  simp only [controls, Controls.mk.injEq] at hkept
  obtain ⟨kcfg, -, ktseq, ktgen, kpump, kplu, kn, krun, kline, kframe, -⟩ := hkept
  rw [EnginesLegal, kcfg, ktseq, ktgen, kpump, kplu, kn, krun, kline, kframe]
  exact ⟨htseq, hpump, hline, hframe, htgen, hplu, hn, fun hm => (h.absent hm).trans (habsent hm)⟩

theorem ControlsKept.backlightLegal (h : ControlsKept s t) (hs : BacklightLegal s) : BacklightLegal t := by
  rwa [BacklightLegal, h.cfg, show t.regs.blDuty = s.regs.blDuty from congrArg Controls.blDuty h.same]

end

theorem raise_controlsKept (c : Code) (s : State) : ControlsKept s (raise c s) := ⟨rfl, fun _ => rfl⟩

theorem setChan_controlsKept (s : State) (n : ChanId) (x : Channel) : ControlsKept s (s.setChan n x) :=
  ⟨rfl, fun _ => rfl⟩

/-! ## The start of the channels -/

theorem trigger_controlsKept {n : ChanId} {v : Word} {s t : State} (h : trigger n v s = .ok t) :
    ControlsKept s t := by
  have hkept := PixelPump.trigger_enginesKept h
  have hregs := SharedState.trigger_statusOnly h
  obtain ⟨rfl, -⟩ := trigger_ok h
  exact controlsKept_of_enginesKept hkept hregs (by simp) fun _ => by simp

theorem startChannels_controlsKept {s t : State} (h : startChannels s = .ok t) : ControlsKept s t := by
  simp only [startChannels] at h
  split at h
  · cases h
  · rename_i hA
    split at h
    · cases h
      exact trigger_controlsKept hA
    · exact (trigger_controlsKept hA).trans (trigger_controlsKept h)

/-! ## The DMA channels -/

/-- Only in indexed mode does a load pop `PLO` (`10_state.md` R141). -/
theorem dmaLoad_controlsKept (s : State) (a : Word) : ControlsKept s (dmaLoad s a).2 := by
  refine controlsKept_of_enginesKept (PixelPump.dmaLoad_enginesKept s a) (SharedState.dmaLoad_statusOnly s a)
    (dmaLoad_producers s a) fun hm => ?_
  simp only [dmaLoad, hm]
  split
  · rfl
  · split <;> simp

/-- Only in indexed mode does a store push `PLI` (R141). -/
theorem portStore_controlsKept (s : State) (off : Nat) (v : Word) : ControlsKept s (portStore s off v) := by
  refine controlsKept_of_enginesKept (PixelPump.portStore_enginesKept s off v)
    (SharedState.portStore_statusOnly s off v) (portStore_producers s off v) fun hm => ?_
  simp only [portStore, hm, reduceCtorEq, and_false, if_false]
  split
  · exact pushPf_plu s v
  · exact raise_plu _ s

theorem dmaStore_controlsKept {s t : State} {a v : Word} (h : dmaStore s a v = .ok t) : ControlsKept s t := by
  rcases dmaStore_ok h with ⟨-, rfl⟩ | ⟨off, -, rfl⟩ | ⟨off, -, -, -, ht⟩ | rfl
  · exact ⟨rfl, fun _ => rfl⟩
  · exact portStore_controlsKept s off v
  · exact trigger_controlsKept ht
  · exact raise_controlsKept _ s

theorem dmaCount_controlsKept {n : ChanId} {s t : State} (h : dmaCount n s = .ok t) : ControlsKept s t := by
  have complete : ∀ u, dmaComplete n u = .ok t → ControlsKept u t := by
    intro u hu
    simp only [dmaComplete] at hu
    split at hu
    · cases hu
    · split at hu
      · cases hu
        exact setChan_controlsKept u n _
      · exact (setChan_controlsKept u n _).trans (trigger_controlsKept hu)
  simp only [dmaCount] at h
  split at h
  · exact (setChan_controlsKept s n _).trans (complete _ h)
  · cases h
    exact setChan_controlsKept s n _

theorem dmaStep_controlsKept {n : ChanId} {s t : State} (h : dmaStep n s = .ok t) : ControlsKept s t := by
  simp only [dmaStep] at h
  split at h
  · obtain ⟨u, hstore, hcount⟩ := dmaTransfer_ok h
    exact ((dmaLoad_controlsKept s _).trans (dmaStore_controlsKept hstore)).trans (dmaCount_controlsKept hcount)
  · cases h

/-! ## The tick -/

theorem fetch_en {c : Config} {p q : Pump} {px : BitVec 18} (h : p.fetch c = some (px, q)) : q.en = p.en := by
  simp only [Pump.fetch, Pump.fetchDirect, Pump.fetchIndexed] at h
  split at h
  · split at h
    · cases h
      rfl
    · split at h <;> cases h
      rfl
  · split at h <;> cases h
    rfl

theorem pumpEmit_en (s : State) : (pumpEmit s).pump.en = s.pump.en := by
  unfold pumpEmit
  split
  · rfl
  · rename_i px p hf
    exact (fetch_en hf :)

theorem pumpCycle_en (b : Bool) (s : State) : (pumpCycle b s).pump.en = s.pump.en := by
  rcases pumpCycle_cases b s with ⟨h, -⟩ | ⟨h, -⟩ | ⟨h, -⟩ <;> rw [h]
  case inl => rfl
  case inr.inl => exact pumpEmit_en _
  case inr.inr => exact pumpEmit_en _

theorem pumpCycle_controlsKept (b : Bool) (s : State) : ControlsKept s (pumpCycle b s) := by
  refine ⟨?_, fun _ => pumpCycle_plu b s⟩
  have hregs := congrArg State.regs (pumpCycle_frame b s)
  simp only [controls, pumpCycle_en, pumpCycle_cfg, pumpCycle_producers, pumpCycle_tseq, pumpCycle_tgen, pumpCycle_plu]
  rw [hregs]

theorem deliver_controlsKept (t : Trig) (s : State) : ControlsKept s (deliver t s) := by
  rw [deliver_frame]
  exact ⟨rfl, fun _ => rfl⟩

theorem emitTrace_controlsKept (s : State) : ControlsKept s (emitTrace s) := ⟨rfl, fun _ => rfl⟩

theorem setTgen_controlsKept {s : State} {g : Tgen} (h : g.en = s.tgen.en) :
    ControlsKept s { s with tgen := g } :=
  ⟨by rw [controls, h, controls], fun _ => rfl⟩

theorem cycle_loadWord_en (g : Tgen) (w : Word) (n : BitVec 16) (hs vs : Bool) :
    ((g.loadWord w n).cycle hs vs).en = g.en := by
  rw [TimingGenerator.cycle_loadWord]

theorem wordTick_controlsKept (t : Trig) (n : BitVec 16) (hs vs : Bool) (s : State) :
    ControlsKept s (wordTick t n hs vs s) := by
  have drive : ControlsKept s { s with tgen := (s.tgen.loadWord (timingWord t vs hs n) n).cycle hs vs } :=
    setTgen_controlsKept (cycle_loadWord_en ..)
  refine (drive.trans (pumpCycle_controlsKept s.regs.startF _)).trans (.trans ?_ (emitTrace_controlsKept _))
  split
  · exact deliver_controlsKept t _
  · exact .refl _

theorem stallTick_controlsKept (s : State) : ControlsKept s (stallTick s) :=
  ((raise_controlsKept .tqUnderrun s).trans (pumpCycle_controlsKept s.regs.startF _)).trans (emitTrace_controlsKept _)

theorem tickStep_controlsKept {s t : State} (h : tickStep s = .next t) : ControlsKept s t := by
  rcases tickStep_next h with ⟨-, -, rfl⟩ | ⟨w, q, -, -, -, rfl⟩ | ⟨-, -, rfl⟩
  · exact stallTick_controlsKept s
  · have pop : ControlsKept s { s with tgen := { s.tgen with tq := q } } := ⟨rfl, fun _ => rfl⟩
    exact pop.trans (wordTick_controlsKept ..)
  · exact wordTick_controlsKept ..

end Sys2Proof.ControlState
end

section
/-! The producers' local variables stay legal (`46_host_commands.md` R870 to R880): a command begins with arguments
that passed its checks, each later step keeps them, and nobody else writes a producer's command state. -/

namespace Sys2Proof.ProducerState

open Sys2Proof Sys2Proof.Machine Sys2Proof.Safety Sys2Proof.Laws Sys2Proof.CommandForms Sys2Proof.ControlState

/-! ## The next command state -/

/-- No boundary lies beyond the buffer (R871). -/
theorem boundary_le (c : Config) (lp dest : Word) : boundary c lp dest ≤ c.bufBytes := by
  simp only [boundary]
  split_ifs <;> omega

/-- A direct copy moves by whole pixels, so it meets the buffer's end exactly (R872). -/
theorem afterCopy_legal {c : Config} {src dest : Word} {n cur re : Nat} (hc : c.wf = true)
    (h : CmdLegal c (.uCopy src n dest cur re)) : CmdLegal c (afterCopy c src n dest (cur + 2) re) := by
  obtain ⟨hm, hn, hsrc, hdest, heven, hcur, hre⟩ := h
  obtain ⟨-, -, -, -, -, -, -, -, -, hbytes⟩ := wf_sizes hc
  simp only [afterCopy]
  split_ifs with hend hrun
  · trivial
  · exact ⟨hm, hn, hsrc, hdest, by omega, by omega⟩
  · exact ⟨hm, hn, hsrc, hdest, by omega, by omega, hre⟩

theorem afterPartial_legal {c : Config} {src dest : Word} {x y w h yy xx : Nat}
    (hl : CmdLegal c (.pCopy src dest x y w h yy xx)) : CmdLegal c (afterPartial src dest x y w h yy xx) := by
  obtain ⟨hsrc, hdest, hregion, hy, hyh, hx, hxw⟩ := hl
  simp only [afterPartial]
  split_ifs with hcol hrow
  · exact ⟨hsrc, hdest, hregion, hy, hyh, by omega, hcol⟩
  · exact ⟨hsrc, hdest, hregion, by omega, hrow, Nat.le_refl x, by omega⟩
  · trivial

theorem nextCmd_legal {s : State} {x : Cmd} (hs : ScanLegal s) (h : CmdLegal s.cfg x) :
    CmdLegal s.cfg (nextCmd s x) := by
  obtain ⟨hc, -, -, hlive, -⟩ := hs
  cases x with
  | idle => trivial
  | waitVsync => trivial
  | uRead src n dest cur =>
    obtain ⟨hm, hn, hsrc, hdest, heven, hcur⟩ := h
    simp only [nextCmd]
    split
    next hb => exact ⟨hm, hn, hsrc, hdest, heven, hb, boundary_le _ _ _⟩
    next => exact ⟨hm, hn, hsrc, hdest, heven, hcur⟩
  | uCopy src n dest cur re => exact afterCopy_legal hc h
  | uiWait src n pal =>
    obtain ⟨hm, hn, hsrc, hpal⟩ := h
    exact ⟨hm, hn, hsrc, hpal, by decide, fun h0 => absurd rfl h0⟩
  | uiPal src n pal dest i =>
    obtain ⟨hm, hn, hsrc, hpal, hi, hdest⟩ := h
    have hdest' : s.cfg.bufferOk (if i = 0 then s.regs.liveBase else dest) = true := by
      split
      next => exact hlive
      next h0 => exact hdest h0
    simp only [nextCmd]
    split
    next hlt => exact ⟨hm, hn, hsrc, hpal, hlt, fun _ => hdest'⟩
    next => exact ⟨hm, hn, hsrc, hdest', bufBytes_pos hc⟩
  | uiCopy src n dest o =>
    obtain ⟨hm, hn, hsrc, hdest, -⟩ := h
    simp only [nextCmd]
    split
    next hlt => exact ⟨hm, hn, hsrc, hdest, hlt⟩
    next => trivial
  | pCopy src dest x y w h' yy xx => exact afterPartial_legal h

/-! ## The producers' own steps -/

section
variable {s t : State} {p : Producer} {n : Nat}

theorem producersLegal_of_eq (hcfg : t.cfg = s.cfg) (hps : t.producers = s.producers) (h : ProducersLegal s) :
    ProducersLegal t := by
  rwa [ProducersLegal, hcfg, hps]

theorem setProducer_keeps_producersLegal (hp : CmdLegal s.cfg p.cmd) (h : ProducersLegal s) :
    ProducersLegal (s.setProducer n p) := by
  intro q hq
  rcases List.mem_or_eq_of_mem_set hq with hq | rfl
  · exact h q hq
  · exact hp

theorem setCmd_keeps_producersLegal {c : Cmd} (hc : CmdLegal s.cfg c) (h : ProducersLegal s) :
    ProducersLegal (s.setCmd c) := by
  unfold State.setCmd
  split
  next => exact h
  next => exact setProducer_keeps_producersLegal hc h

theorem producersLegal_getElem (h : ProducersLegal s) (hp : s.producers[n]? = some p) : CmdLegal s.cfg p.cmd :=
  h p (List.mem_of_getElem? hp)

theorem controlsKept_producersLegal (h : ControlsKept s t) (hps : ProducersLegal s) : ProducersLegal t :=
  producersLegal_of_eq h.cfg h.producers hps

theorem initBlock_keeps_producersLegal (h : initBlock s = .ok t) (hps : ProducersLegal s) : ProducersLegal t := by
  obtain ⟨u, hstart, rfl⟩ := initBlock_ok h
  have hu : ProducersLegal u := controlsKept_producersLegal (startChannels_controlsKept hstart) hps
  exact hu

theorem issued_keeps_producersLegal (h : Issued p s t) (hs : ScanLegal s) (hp : CmdLegal s.cfg p.cmd)
    (hps : ProducersLegal s) : ProducersLegal t := by
  cases h with
  | ticked tr count hs' vs => exact controlsKept_producersLegal (wordTick_controlsKept ..) hps
  | initialised h => exact initBlock_keeps_producersLegal (s := drawn s) h hps
  | tornDown h => cases h; exact hps
  | begun wait c hc => exact setCmd_keeps_producersLegal (hc hs) hps
  | loaded v => exact setProducer_keeps_producersLegal hp hps
  | _ => exact hps

theorem producerStep_keeps_producersLegal (h : producerStep n s = .next t) (hs : ScanLegal s)
    (hps : ProducersLegal s) : ProducersLegal t := by
  rcases producerStep_next h with rfl | ⟨p, r, q, hp, -, -, hissue⟩ | ⟨p, hp, hne, hcmd⟩
  · exact hps
  · have hlegal := producersLegal_getElem hps hp
    exact issued_keeps_producersLegal (issue_issued hissue) hs hlegal (setProducer_keeps_producersLegal hlegal hps)
  · obtain ⟨m, rfl⟩ := cmdStep_ok hne hcmd
    exact setCmd_keeps_producersLegal (nextCmd_legal (s := s) hs (producersLegal_getElem hps hp)) hps

/-! ## The step -/

theorem dispStep_keeps_producersLegal (h : dispStep s = .ok t) (hps : ProducersLegal s) : ProducersLegal t := by
  simp only [dispStep] at h
  split at h
  · obtain ⟨u, hstart, rfl⟩ := frameTransition_ok h
    have hrest : ProducersLegal (DmaChain.frameStart s) :=
      producersLegal_of_eq (DmaChain.frameStart_cfg s) (by simp [DmaChain.frameStart]) hps
    have hu : ProducersLegal u := controlsKept_producersLegal (startChannels_controlsKept hstart) hrest
    exact hu
  · cases h
    exact hps

theorem runAgent_keeps_producersLegal {a : Agent} (h : runAgent a s = .next t) (hs : ScanLegal s)
    (hps : ProducersLegal s) : ProducersLegal t := by
  cases a with
  | tseq => cases h; exact hps
  | tgenStart => cases h; exact hps
  | tick => exact controlsKept_producersLegal (tickStep_controlsKept h) hps
  | plu => cases h; exact hps
  | dma n => exact controlsKept_producersLegal (dmaStep_controlsKept (outcomeOf_next h)) hps
  | disp => exact dispStep_keeps_producersLegal (outcomeOf_next h) hps
  | producer n => exact producerStep_keeps_producersLegal h hs hps

end

/-- Settles O56: only a producer's own step writes its command state, and `Issued` and `nextCmd` say to what. -/
theorem stepKeepsProducersLegal : Obligations.StepKeepsProducersLegal := by
  intro s t hs hps h
  rcases SharedState.step_runs h with rfl | ⟨-, hrun⟩
  · exact hps
  · exact runAgent_keeps_producersLegal (s := takeTurn s) hrun hs hps

end Sys2Proof.ProducerState
end

section
/-! The enables stand together and the duty within `PWM_TOP`: `INIT` and `TEARDOWN` write all the enables at once
(`46_host_commands.md` R810, R815), an engine is enabled on its own only while the block runs, and the backlight's
curve ends at 940, the least `PWM_TOP` (R860, `00_scope.md` R4). -/

namespace Sys2Proof.EngineState

open Sys2Proof Sys2Proof.Machine Sys2Proof.Safety Sys2Proof.Laws Sys2Proof.CommandForms Sys2Proof.ControlState

/-! ## The backlight -/

/-- Between its ends the curve of R860 stays below `2 ^ 32`, so the duty is its value. -/
theorem backlightDuty_toNat (c : Config) {b : Nat} (h0 : b ≠ 0) (h255 : b < 255) :
    (backlightDuty c b).toNat = 181 + b * b / 85 ∧ 181 + b * b / 85 ≤ 940 := by
  have hsq : b * b ≤ 254 * 254 := Nat.mul_le_mul (by omega) (by omega)
  rw [backlightDuty, if_neg h0, if_neg (by omega), BitVec.toNat_ofNat]
  omega

theorem backlightDuty_le {c : Config} (hc : c.wf = true) {b : Nat} (hb : b ≤ 255) :
    (backlightDuty c b).toNat ≤ c.pwmTop.toNat := by
  obtain ⟨-, -, htop⟩ := Scope.wf_phases hc
  rcases Nat.eq_zero_or_pos b with rfl | h0
  · exact Nat.zero_le _
  · rcases Nat.lt_or_eq_of_le hb with h255 | rfl
    · obtain ⟨hduty, hle⟩ := backlightDuty_toNat c h0.ne' h255
      omega
    · exact Nat.le_refl _

/-! ## The producers -/

section
variable {s t : State}

theorem setCmd_enginesLegal {c : Cmd} (hs : EnginesLegal s) : EnginesLegal (s.setCmd c) := by
  simpa [EnginesLegal] using hs

theorem setCmd_backlightLegal {c : Cmd} (hs : BacklightLegal s) : BacklightLegal (s.setCmd c) := by
  simpa [BacklightLegal] using hs

/-- `INIT` enables every engine of the mode but TGEN, with `RUN` (R810). -/
theorem initBlock_enginesLegal (h : initBlock s = .ok t) (hs : EnginesLegal s) : EnginesLegal t := by
  obtain ⟨u, hstart, rfl⟩ := initBlock_ok h
  obtain ⟨-, -, -, -, -, -, -, habsent⟩ := hs
  have hkept := startChannels_controlsKept hstart
  have hsame := hkept.same
  simp only [controls, Controls.mk.injEq] at hsame
  obtain ⟨hcfg, -, -, -, hpump, hplu, hn, -⟩ := hsame
  have hcfg' : u.cfg.mode = s.cfg.mode := by rw [hcfg]; rfl
  refine ⟨rfl, hpump, rfl, rfl, fun _ => rfl, ?_⟩
  simp only [hcfg', hplu, hn]
  cases hm : s.cfg.mode with
  | direct =>
    have hu : u.plu = s.plu := (hkept.absent hm).trans (by simp only [DmaChain.initStart, hm])
    simp [DmaChain.initStart, hm, hu, habsent hm]
  | indexed => simp [DmaChain.initStart, hm, Plu.reset]

/-- `TEARDOWN` clears every enable (R815). -/
theorem execTeardown_enginesLegal (h : execTeardown s = .next t) (hs : EnginesLegal s) : EnginesLegal t := by
  cases h
  obtain ⟨-, -, -, -, -, -, hn, habsent⟩ := hs
  refine ⟨rfl, rfl, rfl, rfl, fun h => absurd h Bool.false_ne_true, ?_⟩
  cases hm : s.cfg.mode with
  | direct => simp [habsent hm]
  | indexed => simp [Plu.reset]

theorem initBlock_backlightLegal (h : initBlock s = .ok t) (hs : BacklightLegal s) : BacklightLegal t := by
  obtain ⟨u, hstart, rfl⟩ := initBlock_ok h
  have hu : BacklightLegal u := (startChannels_controlsKept hstart).backlightLegal hs
  exact hu

theorem issued_keeps_enginesLegal {p : Producer} (h : Issued p s t) (hs : EnginesLegal s) : EnginesLegal t := by
  cases h with
  | ticked tr count hs' vs => exact (wordTick_controlsKept ..).enginesLegal hs
  | initialised h => exact initBlock_enginesLegal (s := drawn s) h hs
  | tornDown h => exact execTeardown_enginesLegal h hs
  | begun wait c hc => exact setCmd_enginesLegal hs
  | _ => exact hs

theorem issued_keeps_backlightLegal {p : Producer} (h : Issued p s t) (hs : BacklightLegal s) :
    BacklightLegal t := by
  have ⟨hc, _⟩ := hs
  cases h with
  | ticked tr count hs' vs => exact (wordTick_controlsKept ..).backlightLegal hs
  | initialised h => exact initBlock_backlightLegal (s := drawn s) h hs
  | tornDown h => cases h; exact hs
  | dimmed b hb => exact ⟨hc, backlightDuty_le hc hb⟩
  | begun wait c hc => exact setCmd_backlightLegal hs
  | _ => exact hs

/-- The enables stand together and the duty is within `PWM_TOP`. -/
def EnablesLegal (s : State) : Prop := EnginesLegal s ∧ BacklightLegal s

theorem controlsKept_enablesLegal (h : ControlsKept s t) (hs : EnablesLegal s) : EnablesLegal t := by
  obtain ⟨hengines, hduty⟩ := hs
  exact ⟨h.enginesLegal hengines, h.backlightLegal hduty⟩

theorem producerStep_keeps_enablesLegal {n : Nat} (h : producerStep n s = .next t) (hs : EnablesLegal s) :
    EnablesLegal t := by
  obtain ⟨hengines, hduty⟩ := hs
  rcases producerStep_next h with rfl | ⟨p, r, q, -, -, -, hissue⟩ | ⟨p, -, hne, hcmd⟩
  · exact ⟨hengines, hduty⟩
  · have hform := issue_issued hissue
    exact ⟨issued_keeps_enginesLegal hform hengines, issued_keeps_backlightLegal hform hduty⟩
  · obtain ⟨m, rfl⟩ := cmdStep_ok hne hcmd
    exact ⟨setCmd_enginesLegal hengines, setCmd_backlightLegal hduty⟩

/-! ## The block's own agents -/

theorem pluEnabled_indexed (h : pluEnabled s = true) : s.cfg.mode = .indexed := by
  simp only [pluEnabled, pluLoadEnabled, pluLookupEnabled, Bool.or_eq_true, Bool.and_eq_true, decide_eq_true_eq] at h
  rcases h with ⟨⟨⟨hm, -⟩, -⟩, -⟩ | ⟨⟨⟨hm, -⟩, -⟩, -⟩ <;> exact hm

/-- A load hands the PLU four indices, a lookup takes one (`43_palette_lookup.md` R552, R553). -/
theorem pluStep_keeps_enginesLegal (he : pluEnabled s = true) (hs : EnginesLegal s) :
    EnginesLegal (pluStep s) := by
  obtain ⟨htseq, hpump, hline, hframe, htgen, hplu, hn, -⟩ := hs
  have hm := pluEnabled_indexed he
  have hstep : (pluStep s).plu.en = s.plu.en ∧ (pluStep s).plu.n.toNat ≤ 4 := by
    simp only [pluStep]
    split
    next h0 =>
      simp only [Plu.load]
      split
      · exact ⟨rfl, hn⟩
      · exact ⟨rfl, Nat.le_refl 4⟩
    next h0 =>
      refine ⟨rfl, ?_⟩
      simp only [Plu.lookup]
      bv_omega
  obtain ⟨hen, hn'⟩ := hstep
  exact ⟨htseq, hpump, hline, hframe, htgen, hen.trans hplu, hn', fun hd => by cases hm.symm.trans hd⟩

theorem frameQuiesce_plu (s : State) :
    (frameQuiesce s).plu = if s.cfg.mode = .indexed then s.plu.reset else s.plu := by
  unfold frameQuiesce
  cases hm : s.cfg.mode <;> simp

/-- Where a frame transition starts the channels the pump is enabled, as it is while the block runs
(`45_dispatcher.md` R700, R710). -/
theorem frameStart_enginesLegal (hrun : s.regs.run = true) (hs : EnginesLegal s) :
    EnginesLegal (DmaChain.frameStart s) := by
  obtain ⟨htseq, -, hline, hframe, htgen, hplu, hn, habsent⟩ := hs
  simp only [EnginesLegal, DmaChain.frameStart, Regs.takeFrame, frameQuiesce_cfg, frameQuiesce_tseq, frameQuiesce_tgen,
    frameQuiesce_regs, PixelPump.frameQuiesce_pump, frameQuiesce_plu]
  refine ⟨htseq, hrun.symm, hline, hframe, htgen, ?_⟩
  cases hm : s.cfg.mode with
  | direct => simp [habsent hm]
  | indexed => simp [hm, Plu.reset, hplu]

theorem dispStep_keeps_enablesLegal (h : dispStep s = .ok t) (hrun : s.regs.run = true) (hs : EnablesLegal s) :
    EnablesLegal t := by
  obtain ⟨hengines, hduty⟩ := hs
  simp only [dispStep] at h
  split at h
  · obtain ⟨u, hstart, rfl⟩ := frameTransition_ok h
    have hduty' : BacklightLegal (DmaChain.frameStart s) := by
      rw [BacklightLegal, DmaChain.frameStart_cfg, DmaChain.frameStart_regs]
      exact hduty
    have hu : EnablesLegal u := controlsKept_enablesLegal (startChannels_controlsKept hstart)
      ⟨frameStart_enginesLegal hrun hengines, hduty'⟩
    exact hu
  · cases h
    exact ⟨hengines, hduty⟩

theorem tgenStart_keeps_enginesLegal (he : tgenStartEnabled s = true) (hs : EnginesLegal s) :
    EnginesLegal (tgenStartStep s) := by
  obtain ⟨hrun, -⟩ := (TimingGenerator.tgenStartEnabled_iff s).1 he
  obtain ⟨htseq, hpump, hline, hframe, -, hplu⟩ := hs
  exact ⟨htseq, hpump, hline, hframe, fun _ => hrun, hplu⟩

theorem runAgent_keeps_enablesLegal {a : Agent} (he : enabled a s = true) (h : runAgent a s = .next t)
    (hs : EnablesLegal s) : EnablesLegal t := by
  have ⟨hengines, hduty⟩ := hs
  cases a with
  | tseq => cases h; exact hs
  | tgenStart => cases h; exact ⟨tgenStart_keeps_enginesLegal he hengines, hduty⟩
  | tick => exact controlsKept_enablesLegal (tickStep_controlsKept h) hs
  | plu => cases h; exact ⟨pluStep_keeps_enginesLegal he hengines, hduty⟩
  | dma n => exact controlsKept_enablesLegal (dmaStep_controlsKept (outcomeOf_next h)) hs
  | disp => exact dispStep_keeps_enablesLegal (outcomeOf_next h) (SharedState.dispEnabled_run he) hs
  | producer n => exact producerStep_keeps_enablesLegal h hs

end

/-- Settles O54: whoever enables an engine without `RUN` has found `RUN` set, and no brightness takes the curve past
`PWM_TOP`. -/
theorem stepKeepsEnginesLegal : Obligations.StepKeepsEnginesLegal := by
  intro s t hengines hduty h
  rcases SharedState.step_runs h with rfl | ⟨he, hrun⟩
  · exact ⟨hengines, hduty⟩
  · exact runAgent_keeps_enablesLegal (s := takeTurn s) (by rwa [enabled_takeTurn]) hrun ⟨hengines, hduty⟩

end Sys2Proof.EngineState
end

section
/-! The first steps of the host commands (`46_host_commands.md` section 2 and R870, R880), and the step that issues
what an idle producer asks for (R800). -/

namespace Sys2Proof.HostCommands

open Sys2Proof Sys2Proof.Machine Sys2Proof.Safety Sys2Proof.Laws Sys2Proof.CommandForms

/-! ## What an idle producer issues -/

section
variable {s t u : State} {a : Word} {z : Size} {v : Word} {r : Refusal} {p : Producer}

/-- A load reads neither the producers nor the run around. -/
theorem producerLoad_of_turn (s : State) (n : Nat) (p : Producer) (a : Word) (z : Size) :
    producerLoad (((takeTurn s).withActor n).setProducer n p) a z = producerLoad s a z := by
  unfold producerLoad
  rfl

/-- Whether a store is refused is a matter of the configuration (`20_memory.md` R204 to R206). -/
theorem producerStore_error_of_cfg (hcfg : u.cfg = s.cfg) (h : producerStore s a z v = .error r) :
    producerStore u a z v = .error r := by
  simp only [producerStore, hcfg] at h ⊢
  split at h
  next hmis => rwa [if_pos hmis]
  next hal =>
    rw [if_neg hal]
    split at h
    · cases h
    · exact h
    · exact h
    · exact h

theorem producerStore_ok_of_cfg (hcfg : u.cfg = s.cfg) (hmem : u.mem = s.mem)
    (h : producerStore s a z v = .ok t) : producerStore u a z v = .ok { u with mem := t.mem } := by
  obtain ⟨hal, hr, rfl⟩ := producerStore_ok h
  rw [producerStore_ram v hal (by rwa [hcfg]), hmem]

theorem issue_load_ok (h : producerLoad s a z = .ok v) :
    issue (.load a z) p s = .next (s.setProducer s.env.actor { p with loaded := v }) := by
  simp only [issue, h]

theorem issue_load_error (h : producerLoad s a z = .error r) : issue (.load a z) p s = .refused r := by
  simp only [issue, h]

theorem issue_store (p : Producer) (s : State) (a : Word) (z : Size) (v : Word) :
    issue (.store a z v) p s = outcomeOf (producerStore s a z v) := rfl

end

/-- Settles O7: the step is the producer's turn, which issues the request at the head of its queue. -/
theorem stepRunsTheCommand : Obligations.StepRunsTheCommand := by
  intro s n p q hs hc hp hidle issued
  have hstep : ∀ {r : Request}, p.queue = r :: q → step s = issue r { p with queue := q } issued := fun hq => by
    rw [Scope.step_running hs, hc, Encoding.agentTurn_issue (s := takeTurn s) hp hidle hq]
  have hload : ∀ a z, producerLoad issued a z = producerLoad s a z := producerLoad_of_turn s n _
  refine ⟨fun c i hq hi => ?command, fun a z hq => ⟨fun v hv => ?loaded, fun r hr => ?loadRefused⟩,
    fun a z v hq => ⟨fun t ht => ?stored, fun r hr => ?storeRefused⟩⟩ <;> rw [hstep hq]
  case command => simp only [issue, hi]
  case loaded =>
    rw [issue_load_ok ((hload a z).trans hv)]
    simp only [issued, State.setProducer, State.withActor, List.set_set, takeTurn_producers]
  case loadRefused => rw [issue_load_error ((hload a z).trans hr)]
  case stored => rw [issue_store, producerStore_ok_of_cfg (s := s) (u := issued) rfl rfl ht, outcomeOf]
  case storeRefused => rw [issue_store, producerStore_error_of_cfg (s := s) (u := issued) rfl hr, outcomeOf]

/-! ## `SET_FRAMEBUFFER` -/

/-- Settles O37: the check is that of a buffer. -/
theorem setFramebufferPublishes : Obligations.SetFramebufferPublishes := by
  intro b s
  have hok := bufferOk_iff s.cfg b
  exact ⟨fun h4 hlo hhi => if_pos (hok.2 ⟨h4, hlo, hhi⟩), fun hbad => if_neg (mt hok.1 hbad)⟩

/-! ## `SET_BACKLIGHT` -/

theorem execSetBacklight_ok {b : Word} (s : State) (hb : b.toNat ≤ 255) :
    exec (.setBacklight b) s = .next { s with regs := { s.regs with blDuty := backlightDuty s.cfg b.toNat } } :=
  if_neg (by omega)

/-- Settles O40: the three branches of the curve. -/
theorem setBacklightFollowsTheCurve : Obligations.SetBacklightFollowsTheCurve := by
  intro b s
  refine ⟨fun hb => if_pos hb,
    fun hb => ⟨_, execSetBacklight_ok s hb, rfl, fun h0 => ?_, fun htop => ?_, fun h0 htop => ?_⟩⟩
  · exact if_pos h0
  · exact (if_neg (by omega)).trans (if_pos htop)
  · exact (EngineState.backlightDuty_toNat s.cfg h0 (by omega)).1

/-! ## `SET_PALETTE` -/

theorem paletteAddr_eq (c : Config) (i : Word) : paletteAddr c i.toNat = c.paletteBase + 4 * i := by
  have hmul : BitVec.ofNat 32 (4 * i.toNat) = 4 * i := by
    apply BitVec.eq_of_toNat_eq
    simp
  rw [paletteAddr, offset, hmul]

/-- An entry of the PaletteTable lies in RAM (`10_state.md` R160), so its write is not refused. -/
theorem writeEntry_ram {s : State} {i : Nat} (colour : Word) (hc : s.cfg.wf = true) (hm : s.cfg.mode = .indexed)
    (hi : i < 256) :
    writeEntry i colour s = .ok { s with mem := memWrite s.mem (paletteAddr s.cfg i) .word (encColour colour) } := by
  obtain ⟨h4, hram⟩ := DmaChain.paletteAddr_wordsInRam hc hm hi
  exact producerStore_ram _ h4 hram

/-- Settles O39: the entry's write is one word stored at its address. -/
theorem setPaletteWritesOneEntry : Obligations.SetPaletteWritesOneEntry := by
  intro i c s hc
  refine ⟨fun hm => ?_, fun hm hi => ?_, fun hm hi => ?_⟩
  · exact if_pos (by rw [hm]; decide)
  · exact (if_neg (not_not_intro hm)).trans (if_pos hi)
  · have hexec : exec (.setPalette i c) s = outcomeOf (writeEntry i.toNat c s) :=
      (if_neg (not_not_intro hm)).trans (if_neg (by omega))
    rw [writeEntry_ram c hc hm (by omega)] at hexec
    refine ⟨_, hexec, rfl, ?_⟩
    rw [← paletteAddr_eq]
    exact ⟨fun b hb => read_memWrite_ne s.mem _ .word _ hb, fun hmem => memRead_memWrite_word _ _ hmem⟩

/-! ## `WAIT_VSYNC`, `UPDATE` and `PARTIAL_UPDATE` -/

/-- The first step of the two commands that wait for the frame (R830, R873). -/
theorem setWait_setCmd {s : State} {p : Producer} (hp : s.producers[s.env.actor]? = some p) (c : Cmd) :
    State.setCmd { s with regs := { s.regs with vsWait := true } } c = { s with
      regs := { s.regs with vsWait := true }
      producers := s.producers.set s.env.actor (withCmd p c) } :=
  setCmd_eq (s := { s with regs := { s.regs with vsWait := true } }) c hp

theorem execUpdate_refused {s : State} {src n pal : Word} (h : ¬updateArgsOk s.cfg src n.toNat pal = true) :
    exec (.update src n pal) s = .next (refuse .argRange s) := if_pos (Bool.eq_false_of_not_eq_true h)

theorem execUpdate_direct {s : State} {src n pal : Word} (h : updateArgsOk s.cfg src n.toNat pal = true)
    (hm : s.cfg.mode = .direct) :
    exec (.update src n pal) s = .next (s.setCmd (.uRead src n.toNat s.regs.liveBase 0)) := by
  simp only [exec, execUpdate, h, hm, Bool.true_eq_false, if_false]

theorem execUpdate_indexed {s : State} {src n pal : Word} (h : updateArgsOk s.cfg src n.toNat pal = true)
    (hm : s.cfg.mode = .indexed) :
    exec (.update src n pal) s =
      .next (State.setCmd { s with regs := { s.regs with vsWait := true } } (.uiWait src n.toNat pal)) := by
  simp only [exec, execUpdate, h, hm, Bool.true_eq_false, if_false]

/-- Settles O41: the checks in the words of R870, and the two paths' first steps. -/
theorem updateStarts : Obligations.UpdateStarts := by
  intro src n sp s p hp fits fitsPal
  have hargs : updateArgsOk s.cfg src n.toNat sp = true ↔ fits ∧ (s.cfg.mode = .indexed → fitsPal) := by
    rw [updateArgsOk_iff, sourceOk_iff, sourcePaletteOk_iff, ← and_assoc]
    rfl
  refine ⟨fun hm hfits => ?_, fun hm hfits hpal => ?_, fun hbad => ?_⟩
  · have hok := hargs.2 ⟨hfits, fun hi => by rw [hm] at hi; cases hi⟩
    rw [execUpdate_direct hok hm, setCmd_eq _ hp]
    rfl
  · have hok := hargs.2 ⟨hfits, fun _ => hpal⟩
    rw [execUpdate_indexed hok hm, setWait_setCmd hp]
  · rw [execUpdate_refused (mt hargs.1 hbad)]
    rfl

/-- Settles O42: the checks in the order of R880. -/
theorem partialUpdateStarts : Obligations.PartialUpdateStarts := by
  intro src n x y w h s p hp fits
  have hargs : fits ↔ sourceOk s.cfg src 1 = true ∧ regionOk s.cfg x.toNat y.toNat w.toNat h.toNat = true := by
    rw [sourceOk_iff, regionOk_iff, Nat.one_mul, and_assoc, and_assoc]
    rfl
  have checked : n = 1 → fits → exec (.partialUpdate src n x y w h) s = if w = 0 ∨ h = 0 then .next s else
      .next (s.setCmd (.pCopy src s.regs.liveBase x.toNat y.toNat w.toNat h.toNat y.toNat x.toNat)) := by
    intro hn hfits
    obtain ⟨hsrc, hregion⟩ := hargs.1 hfits
    simp only [exec, execPartialUpdate, hn, hsrc, hregion, ne_eq, not_true_eq_false, Bool.true_eq_false, if_false]
  refine ⟨fun hn => if_pos hn, fun hn hbad => ?_, fun hn hfits hempty => ?_, fun hn hfits hw hh => ?_⟩
  · rw [hargs, not_and_or, Bool.not_eq_true, Bool.not_eq_true] at hbad
    simp only [exec, execPartialUpdate, if_neg (not_not_intro hn)]
    split
    next => rfl
    next hsrc => rw [if_pos (hbad.resolve_left hsrc)]; rfl
  · rw [checked hn hfits, if_pos hempty]
  · rw [checked hn hfits, if_neg (not_or.mpr ⟨hw, hh⟩), setCmd_eq _ hp]
    rfl

/-! ## `TEARDOWN` -/

theorem disabled_zero : Channel.zero.disabled = .zero := rfl

/-- The block after `TEARDOWN` (R815). -/
def tornDown (s : State) : State :=
  { s with
    dma :=
      { a := s.dma.a.disabled
        b := s.dma.b.disabled
        c := if s.cfg.mode = .indexed then s.dma.c.disabled else s.dma.c
        d := if s.cfg.mode = .indexed then s.dma.d.disabled else s.dma.d }
    tseq := { s.tseq with en := false }
    tgen := { s.tgen with en := false, tq := [] }
    pump := { s.pump with en := false, st := .waitStart, left := 0, hv := false, hi := 0, pf := [] }
    plu := if s.cfg.mode = .indexed then ⟨false, 0, 0, [], []⟩ else { s.plu with en := false }
    regs := { s.regs with run := false, lineE := false, frameE := false } }

theorem exec_teardown (s : State) : exec .teardown s = .next (tornDown s) := by
  cases hm : s.cfg.mode <;> simp [exec, execTeardown, tornDown, Config.hasChan, hm, Pump.forceEntry, Plu.reset]

theorem tornDown_tornDown (s : State) : tornDown (tornDown s) = tornDown s := by
  simp only [tornDown]
  cases s.cfg.mode <;> rfl

theorem tornDown_ofConfig (c : Config) : tornDown (State.ofConfig c) = State.ofConfig c := by
  cases hm : c.mode <;> simp [tornDown, State.ofConfig, hm, disabled_zero]

/-- C and D are disabled where they exist (R815, `44_dma_chain.md` R600). -/
theorem tornDown_absent (c : Config) (x : Channel) {n : ChanId} (hn : n = .c ∨ n = .d) :
    (if c.mode = .indexed then x.disabled else x) = if c.hasChan n then
      { x with ctrl := { x.ctrl with en := false, busy := false }, remain := 0 } else x := by
  rcases hn with rfl | rfl <;> cases hm : c.mode <;> simp [Config.hasChan, hm, Channel.disabled, Channel.idle]

/-- Settles O36: what `tornDown` clears stays clear, and is clear after `construct`. -/
theorem teardownStopsTheBlock : Obligations.TeardownStopsTheBlock := by
  refine ⟨fun s => ⟨tornDown s, exec_teardown s, rfl, rfl, rfl, rfl, rfl, fun n => ?_, rfl, rfl, rfl, rfl, ?_⟩,
    fun c => ?_⟩
  · cases n with
    | a => rfl
    | b => rfl
    | c => exact tornDown_absent s.cfg s.dma.c (.inl rfl)
    | d => exact tornDown_absent s.cfg s.dma.d (.inr rfl)
  · rw [exec_teardown, tornDown_tornDown]
  · rw [exec_teardown, tornDown_ofConfig]

/-! ## `INIT` -/

/-- The block that `INIT` has programmed and started (R810). -/
def started (s : State) : State :=
  { DmaChain.initStart s with
    dma := DmaChain.startedChannels (DmaChain.initStart s)
    regs := { (DmaChain.initStart s).regs with lineE := true, frameE := true, run := true }
    tseq := ⟨true, 0, 0⟩ }

/-- The channels of a checked configuration start from rest, so `INIT` is never refused. -/
theorem initBlock_of_wf {s : State} (hc : s.cfg.wf = true) : initBlock s = .ok (started s) :=
  DmaChain.initBlock_of_start
    (DmaChain.startChannels_of_rest (s := DmaChain.initStart s) hc (DmaChain.atRest_of_program rfl))

theorem exec_init {s : State} (hc : s.cfg.wf = true) (hoff : s.regs.run = false) :
    exec .init s = .next (if resOk s then started (drawn s) else fatalStop (drawn s)) := by
  have hinit : initBlock (drawn s) = .ok (started (drawn s)) := initBlock_of_wf hc
  simp only [exec, execInit, hoff, hinit, Bool.false_eq_true, if_false]

/-- The channels `INIT` leaves: as programmed (`44_dma_chain.md` R640, R650), with A triggered on the live buffer and,
in indexed mode, C on its port (R652). -/
theorem started_dma {s : State} (hc : s.cfg.wf = true) :
    (started s).dma.a = DmaChain.triggered (programA s.cfg) s.regs.liveBase ∧
    (started s).dma.b = programB s.cfg ∧
    (s.cfg.mode = .direct → (started s).dma.c = .zero ∧ (started s).dma.d = .zero) ∧
    (s.cfg.mode = .indexed → (started s).dma.c = (programC s.cfg).started (addrPluOutf s.cfg) ∧
      (started s).dma.d = programD s.cfg) := by
  simp only [started, DmaChain.startedChannels, DmaChain.initStart, programChannels]
  cases hm : s.cfg.mode with
  | direct => simp
  | indexed => simp [DmaChain.triggered_of_ne _ (DmaChain.addrPluOutf_ne_zero hc)]

theorem started_plu (s : State) :
    (started s).plu = if s.cfg.mode = .indexed then ⟨true, 0, 0, [], []⟩ else s.plu := by
  cases hm : s.cfg.mode <;> simp [started, DmaChain.initStart, hm, Plu.reset]

/-- A as `INIT` programs it, and its `CTRL` before and after the trigger (R640, R650). -/
theorem programA_words (c : Config) :
    (programA c).writeAddr = c.regBase + (if c.mode = .indexed then 0x44 else 0x40) ∧
    (programA c).transCount = BitVec.ofNat 32 c.lineWords ∧
    (programA c).ctrl.busy = false ∧
    (programA c).ctrl.toWord = (if c.mode = .indexed then 0x145 else 0x135) ∧
    Ctrl.toWord { (programA c).ctrl with busy := true } = (if c.mode = .indexed then 0x147 else 0x137) := by
  cases hm : c.mode <;> simp [programA, hm, Ctrl.toWord, addrPumpTxf, addrPluInf, offset, offPumpTxf, offPluInf]

/-- The `CTRL` words of B, of C with its run begun, and of D (R640, R650, R652). -/
theorem program_ctrl_words (c : Config) :
    (programB c).ctrl.toWord = 0x101 ∧ Ctrl.toWord { (programC c).ctrl with busy := true } = 0x263 ∧
    (programD c).ctrl.toWord = 0x221 := by
  simp [programB, programC, programD, Ctrl.toWord]

/-- Settles O35: the three outcomes of `execInit`, and the fields of `started`. -/
theorem initProgramsTheBlock : Obligations.InitProgramsTheBlock := by
  intro s hc
  refine ⟨fun hrun => if_pos hrun, fun hoff hres => ?failed, fun hoff hres => ?started⟩
  case failed =>
    rw [exec_init hc hoff, if_neg (by simp [hres])]
    rfl
  case started =>
    rw [exec_init hc hoff, if_pos hres]
    obtain ⟨ha, hb, hdirect, hindexed⟩ := started_dma (s := drawn s) hc
    obtain ⟨hwrite, hcount, hrest, hidle, hbusy⟩ := programA_words s.cfg
    obtain ⟨hctrlB, hctrlC, hctrlD⟩ := program_ctrl_words s.cfg
    refine ⟨_, rfl, rfl, rfl, rfl, rfl, started_plu (drawn s), rfl, rfl, rfl, rfl, ?_⟩
    rw [ha, hb, drawn_regs, drawn_cfg]
    refine ⟨fun hlive => ?_, fun hlive => ?_, hcount, hwrite, rfl, rfl, rfl, rfl, hctrlB, hdirect, fun hm => ?_⟩
    · rw [DmaChain.triggered_of_ne _ hlive]
      exact ⟨rfl, hcount, hbusy⟩
    · rw [hlive, DmaChain.triggered_zero]
      refine ⟨rfl, rfl, ?_⟩
      rw [← hidle, Channel.idle, ← hrest]
    · obtain ⟨hC, hD⟩ := hindexed hm
      rw [hC, hD]
      exact ⟨rfl, rfl, rfl, rfl, hctrlC, rfl, rfl, rfl, rfl, hctrlD⟩

end Sys2Proof.HostCommands
end

section
/-! The later steps of the host commands (`46_host_commands.md` R830, R871 to R874, R880): a producer in the middle of
a command takes one step per turn, stores at most one pixel or entry, and goes to its next command state. -/

namespace Sys2Proof.CommandSteps

open Sys2Proof Sys2Proof.Machine Sys2Proof.Safety Sys2Proof.Laws Sys2Proof.CommandForms

/-! ## The turn of a producer in the middle of a command -/

section
variable {s : State} {k : Nat} {p : Producer}

theorem enabled_cmd (hp : s.producers[k]? = some p) (hc : p.cmd ≠ .idle) :
    enabled (.producer k) s = cmdEnabled p.cmd s := by
  simp only [enabled, producerEnabled, hp, if_neg hc]

theorem agentTurn_cmd (hp : s.producers[k]? = some p) (hc : p.cmd ≠ .idle) :
    agentTurn (.producer k) s =
      if cmdEnabled p.cmd s then outcomeOf (cmdStep p.cmd (s.withActor k)) else .next s := by
  simp only [agentTurn, enabled_cmd hp hc]
  congr 1
  simp only [runAgent, producerStep, hp]

/-- The command state of the producer whose turn it is, with what the step has stored. -/
theorem setCmd_turn (hp : s.producers[k]? = some p) (m : List Host.Cell) (c : Cmd) :
    State.setCmd { s.withActor k with mem := m } c = { s with
      mem := m
      env := { s.env with actor := k }
      producers := s.producers.set k (withCmd p c) } :=
  setCmd_eq (s := { s.withActor k with mem := m }) c hp

/-- The turn of a producer whose next step is enabled and not refused. -/
theorem agentTurn_of_cmdStep {m : List Host.Cell} {c : Cmd} (hp : s.producers[k]? = some p) (hc : p.cmd ≠ .idle)
    (he : cmdEnabled p.cmd s = true)
    (hstep : cmdStep p.cmd (s.withActor k) = .ok (State.setCmd { s.withActor k with mem := m } c)) :
    agentTurn (.producer k) s = .next { s with
      mem := m
      env := { s.env with actor := k }
      producers := s.producers.set k (withCmd p c) } := by
  rw [agentTurn_cmd hp hc, if_pos he, hstep, setCmd_turn hp]
  rfl

/-- The turn of a producer that waits for the frame (R830, R873). -/
theorem agentTurn_wait {c : Cmd} (hp : s.producers[k]? = some p) (hc : p.cmd ≠ .idle)
    (he : cmdEnabled p.cmd s = !s.regs.vsWait)
    (hstep : cmdStep p.cmd (s.withActor k) = .ok ((s.withActor k).setCmd c)) :
    agentTurn (.producer k) s = .next (if s.regs.vsWait then s else { s with
      env := { s.env with actor := k }
      producers := s.producers.set k (withCmd p c) }) := by
  cases hv : s.regs.vsWait with rw [hv] at he
  | false => exact agentTurn_of_cmdStep (m := s.mem) hp hc he hstep
  | true =>
    rw [agentTurn_cmd hp hc, he]
    rfl

end

/-- Settles O38: the first step is `execWaitVsync`, and the second is what `cmdEnabled` and `cmdStep` say. -/
theorem waitVsyncWaits : Obligations.WaitVsyncWaits := by
  refine ⟨fun s p hp => congrArg _ (HostCommands.setWait_setCmd hp _), fun s k p hp hw => ?_⟩
  have hidle : p.cmd ≠ .idle := by rw [hw]; exact Cmd.noConfusion
  have he : cmdEnabled p.cmd s = !s.regs.vsWait := by rw [hw]; rfl
  exact ⟨(enabled_cmd hp hidle).trans he, agentTurn_wait hp hidle he (by rw [hw]; rfl)⟩

/-! ## The boundary -/

/-- Where the boundary lies for a pointer inside the buffer, above its start (R871). -/
theorem boundary_inside {c : Config} {lp dest : Word} (h0 : lp ≠ 0) (hlo : dest.toNat < lp.toNat)
    (hhi : lp.toNat < dest.toNat + c.bufBytes) :
    boundary c lp dest =
      if c.stride ≤ lp.toNat - dest.toNat then lp.toNat - dest.toNat - c.stride else 0 := by
  have hne : lp ≠ dest := by
    rintro rfl
    exact lt_irrefl _ hlo
  refine if_neg ?_
  rintro (h | h | h | h)
  · exact h0 h
  · exact hne h
  · omega
  · omega

/-- Row `k` of a buffer in RAM, with the room the row takes. -/
theorem row_toNat {c : Config} {dest : Word} {k : Nat} (hc : c.wf = true) (hd : c.bufferOk dest = true)
    (hk : k < c.bufRows) :
    (dest + BitVec.ofNat 32 (c.stride * k)).toNat = dest.toNat + c.stride * k ∧
      c.stride * k + c.stride ≤ c.bufBytes := by
  obtain ⟨htop, -⟩ := wf_map hc
  obtain ⟨-, -, -, -, -, -, -, hstride, -⟩ := wf_sizes hc
  obtain ⟨-, -, hend⟩ := (bufferOk_iff c dest).1 hd
  have hroom : c.stride * (k + 1) ≤ c.stride * c.bufRows := Nat.mul_le_mul_left _ hk
  rw [Nat.mul_succ, ← Config.bufBytes] at hroom
  exact ⟨offset_toNat (by omega), hroom⟩

/-- Settles O43: the pointer lies outside the buffer, in its first line, or behind it. -/
theorem boundaryIsOneLineBehind : Obligations.BoundaryIsOneLineBehind := by
  intro c lp dest hc
  obtain ⟨-, -, -, -, -, -, -, hstride, -⟩ := wf_sizes hc
  refine ⟨fun h => if_pos h, fun h0 hlo hhi => ?_, fun k hd h1 hk hlp h0 => ?_⟩
  · rw [boundary_inside h0 hlo hhi]
    split <;> omega
  · obtain ⟨haddr, hroom⟩ := row_toNat hc hd hk
    rw [← hlp] at haddr
    have hrow : c.stride ≤ c.stride * k := Nat.le_mul_of_pos_right _ h1
    rw [boundary_inside h0 (by omega) (by omega), if_pos (by omega), haddr, Nat.add_sub_cancel_left, Nat.mul_sub_one]

/-! ## The composite -/

/-- Layers `n .. 0` of which every pixel at offset `o` can be read have a composite there (R874). -/
theorem composite_of_layers {s : State} {src : Word} {o n : Nat}
    (h : ∀ l ≤ n, layerPixel s src l o = .ok (layerAt s src l o)) :
    ∃ v, composite s src o n = .ok v ∧ IsComposite s src o (n + 1) v := by
  induction n with
  | zero =>
    exact ⟨_, h 0 (Nat.le_refl 0), 0, Nat.zero_lt_one, rfl, fun m hpos hm => by omega, fun h0 => absurd rfl h0⟩
  | succ n ih =>
    have htop := h (n + 1) (Nat.le_refl _)
    by_cases hzero : layerAt s src (n + 1) o = 0
    case neg =>
      refine ⟨_, ?_, n + 1, Nat.lt_succ_self _, rfl, fun m hlo hhi => by omega, fun _ => hzero⟩
      simp only [composite, htop, if_pos hzero]
    case pos =>
      obtain ⟨v, hv, l, hl, hat, habove, hne⟩ := ih fun l hl => h l (by omega)
      refine ⟨v, ?_, l, by omega, hat, fun m hlo hhi => ?_, hne⟩
      · simp only [composite, htop, hzero, if_neg (not_not_intro rfl), hv]
      · rcases Nat.lt_or_eq_of_le (Nat.le_of_lt_succ hhi) with hm | rfl
        · exact habove m hlo hm
        · exact hzero

theorem pixelSize_bytes (c : Config) : (pixelSize c).bytes = c.bpp := by
  simp only [pixelSize, Config.bpp]
  cases c.mode <;> rfl

/-- A source in RAM has a composite at every pixel's offset. -/
theorem composite_ram {s : State} {src : Word} {o n : Nat} (hc : s.cfg.wf = true) (hn : n ≠ 0)
    (hsrc : sourceOk s.cfg src n = true) (ho : o % s.cfg.bpp = 0) (hb : o < s.cfg.bufBytes) :
    ∃ v, composite s src o (n - 1) = .ok v ∧ IsComposite s src o n v := by
  have h := composite_of_layers (s := s) (src := src) (o := o) (n := n - 1)
    fun l hl => layerPixel_ram hc hsrc (by omega) ho hb
  rwa [Nat.sub_add_cancel (Nat.pos_of_ne_zero hn)] at h

/-- Settles O44: every layer's pixel lies in RAM with the source. -/
theorem compositeTakesTheTopmostNonzero : Obligations.CompositeTakesTheTopmostNonzero :=
  fun s _ _ _ hc hn hsrc ho hb => ⟨pixelSize_bytes s.cfg, composite_ram hc hn hsrc ho hb⟩

/-! ## One pixel of a buffer -/

section
variable {s : State} {src dest : Word} {o n : Nat}

/-- A pixel of a buffer in RAM can be accessed (`10_state.md` R162). -/
theorem bufferPixel_ram {c : Config} (hc : c.wf = true) (hd : c.bufferOk dest = true) (ho : o % c.bpp = 0)
    (hb : o < c.bufBytes) :
    (offset dest o).toNat % (pixelSize c).bytes = 0 ∧ c.inRam (offset dest o) (pixelSize c).bytes = true := by
  obtain ⟨htop, -⟩ := wf_map hc
  obtain ⟨-, -, -, -, -, -, -, -, -, hbytes⟩ := wf_sizes hc
  obtain ⟨h4, hlo, hend⟩ := (bufferOk_iff c dest).1 hd
  have haddr : (offset dest o).toNat = dest.toNat + o := offset_toNat (by omega)
  rw [inRam_iff, haddr, pixelSize_bytes]
  rcases hm : c.mode with _ | _ <;> simp only [Config.bpp, hm] at ho ⊢ <;> omega

/-- The step that copies one pixel of `n` layers in RAM to a buffer (R872, R873). -/
theorem copyPixel_ram (hc : s.cfg.wf = true) (hn : n ≠ 0) (hsrc : sourceOk s.cfg src n = true)
    (hd : s.cfg.bufferOk dest = true) (ho : o % s.cfg.bpp = 0) (hb : o < s.cfg.bufBytes) :
    ∃ v, IsComposite s src o n v ∧
      copyPixel s src n dest o = .ok { s with mem := memWrite s.mem (offset dest o) (pixelSize s.cfg) v } := by
  obtain ⟨v, hv, hcomp⟩ := composite_ram hc hn hsrc ho hb
  obtain ⟨hal, hram⟩ := bufferPixel_ram hc hd ho hb
  refine ⟨v, hcomp, ?_⟩
  simp only [copyPixel, hv]
  exact producerStore_ram v hal hram

/-- A composite is as wide as a pixel, so a pixel's store holds all of it. -/
theorem read_stored_composite {v a : Word} (h : IsComposite s src o n v) (hm : MemoryCanonical s) :
    memRead (memWrite s.mem a (pixelSize s.cfg) v) a (pixelSize s.cfg) = v := by
  obtain ⟨l, -, rfl, -⟩ := h
  rw [memRead_memWrite _ _ _ hm]
  exact memRead_and_mask _ _ _

end

/-! ## The turns that store -/

section
variable {s : State} {k : Nat} {p : Producer}

/-- The turn stores `v` in the `z`-wide access at `a`, no other byte, and takes producer `k` to `c`. -/
def TurnStores (s : State) (k : Nat) (p : Producer) (a : Word) (z : Size) (v : Word) (c : Cmd) (t : State) : Prop :=
  agentTurn (.producer k) s = .next t ∧ SameBytesBut s t a z.bytes ∧
    (MemoryCanonical s → memRead t.mem a z = v) ∧
    t = { s with mem := t.mem, env := { s.env with actor := k }, producers := s.producers.set k (withCmd p c) }

theorem turnStores_of_cmdStep {a v : Word} {z : Size} {c : Cmd} (hp : s.producers[k]? = some p) (hc : p.cmd ≠ .idle)
    (he : cmdEnabled p.cmd s = true)
    (hread : MemoryCanonical s → memRead (memWrite s.mem a z v) a z = v)
    (hstep : cmdStep p.cmd (s.withActor k) =
      .ok (State.setCmd { s.withActor k with mem := memWrite s.mem a z v } c)) :
    ∃ t, TurnStores s k p a z v c t :=
  ⟨_, agentTurn_of_cmdStep hp hc he hstep, fun _ hb => read_memWrite_ne s.mem a z v hb, hread, rfl⟩

/-- The turn of a producer whose next step copies a pixel of the composite. -/
theorem turnStores_of_copy {src dest : Word} {o n : Nat} {c : Cmd} (hp : s.producers[k]? = some p)
    (hc : p.cmd ≠ .idle) (he : cmdEnabled p.cmd s = true) (hwf : s.cfg.wf = true) (hn : n ≠ 0)
    (hsrc : sourceOk s.cfg src n = true) (hd : s.cfg.bufferOk dest = true) (ho : o % s.cfg.bpp = 0)
    (hb : o < s.cfg.bufBytes)
    (hstep : cmdStep p.cmd (s.withActor k) = thenCmd (copyPixel (s.withActor k) src n dest o) c) :
    ∃ v t, IsComposite s src o n v ∧ TurnStores s k p (offset dest o) (pixelSize s.cfg) v c t := by
  obtain ⟨v, hcomp, hcopy⟩ := copyPixel_ram (s := s.withActor k) hwf hn hsrc hd ho hb
  rw [hcopy] at hstep
  obtain ⟨t, ht⟩ := turnStores_of_cmdStep hp hc he (read_stored_composite hcomp) hstep
  exact ⟨v, t, hcomp, ht⟩

end

/-- Settles O45: a read leads to `nextCmd`, and a copy stores the composite of the cursor's pixel. -/
theorem updateCopiesBehindTheScan : Obligations.UpdateCopiesBehindTheScan := by
  intro s k p src dest n cur re hwf hlegal hp
  refine ⟨fun hcmd => ?read, fun hcmd => ?copy⟩ <;>
    have hidle : p.cmd ≠ .idle := by rw [hcmd]; exact Cmd.noConfusion
  case read =>
    have hstep : cmdStep p.cmd (s.withActor k) =
        .ok (State.setCmd { s.withActor k with mem := s.mem } (nextCmd s (.uRead src n dest cur))) := by
      rw [hcmd, cmdStep, stepURead_eq]
      rfl
    exact agentTurn_of_cmdStep hp hidle (by rw [hcmd]; rfl) hstep
  case copy =>
    rw [hcmd] at hlegal
    obtain ⟨hm, hn, hsrc, hdest, heven, hcur, hre⟩ := hlegal
    have hbpp : s.cfg.bpp = 2 := by simp only [Config.bpp, hm]
    have hsize : pixelSize s.cfg = .half := by simp only [pixelSize, hm]
    obtain ⟨v, t, hcomp, ht⟩ := turnStores_of_copy (o := cur) hp hidle (by rw [hcmd]; rfl) hwf hn hsrc hdest
      (by rwa [hbpp]) (by omega) (by rw [hcmd]; rfl)
    rw [hsize] at ht
    obtain ⟨hturn, hsame, hread, hframe⟩ := ht
    exact ⟨v, t, hcomp, hturn, hcur, hsame, hread, hframe⟩

/-! ## The indexed `UPDATE` -/

/-- An entry of a source palette in RAM can be loaded (R870, R873). -/
theorem sourceEntry_ram {s : State} {pal : Word} {i : Nat} (hc : s.cfg.wf = true)
    (hpal : sourcePaletteOk s.cfg pal = true) (hi : i < 256) :
    producerLoad s (offset pal (4 * i)) .word = .ok (memRead s.mem (offset pal (4 * i)) .word) := by
  obtain ⟨htop, -⟩ := wf_map hc
  obtain ⟨h4, hlo, hend⟩ := (sourcePaletteOk_iff ..).1 hpal
  have haddr : (offset pal (4 * i)).toNat = pal.toNat + 4 * i := offset_toNat (by omega)
  refine producerLoad_ram ?_ ?_
  · rw [haddr, Size.bytes]
    omega
  · rw [inRam_iff, haddr, Size.bytes]
    omega

/-- A palette step stores the encoded entry of the source palette (R873). -/
theorem stepUiPal_ram {s : State} {src pal dest : Word} {n i : Nat} (hc : s.cfg.wf = true)
    (hm : s.cfg.mode = .indexed) (hpal : sourcePaletteOk s.cfg pal = true) (hi : i < 256) :
    stepUiPal src n pal dest i s = .ok (State.setCmd { s with
      mem := memWrite s.mem (paletteAddr s.cfg i) .word (encColour (memRead s.mem (offset pal (4 * i)) .word)) }
      (nextCmd s (.uiPal src n pal dest i))) := by
  simp only [stepUiPal, sourceEntry_ram hc hpal hi, HostCommands.writeEntry_ram _ hc hm hi, thenCmd, nextCmd]

theorem nextCmd_uiPal {s : State} {src pal dest : Word} {n i : Nat} (hi : i < 256) :
    nextCmd s (.uiPal src n pal dest i) = if i = 255 then .uiCopy src n dest 0
      else .uiPal src n pal (if i = 0 then s.regs.liveBase else dest) (i + 1) := by
  rw [nextCmd]
  by_cases hlast : i = 255
  · rw [if_neg (by omega), if_pos hlast, if_neg (by omega)]
  · rw [if_pos (by omega), if_neg hlast]

theorem nextCmd_uiCopy {s : State} {src dest : Word} {n o : Nat} (ho : o < s.cfg.bufBytes) :
    nextCmd s (.uiCopy src n dest o) =
      if o + 1 = s.cfg.bufBytes then .idle else .uiCopy src n dest (o + 1) := by
  rw [nextCmd]
  by_cases hlast : o + 1 = s.cfg.bufBytes
  · rw [if_neg (by omega), if_pos hlast]
  · rw [if_pos (by omega), if_neg hlast]

/-- Settles O46: the wait, a store of an encoded entry, and a store of the composite of one byte. -/
theorem indexedUpdateWritesPaletteThenPixels : Obligations.IndexedUpdateWritesPaletteThenPixels := by
  intro s k p src pal dest n i o hwf hlegal hp
  refine ⟨fun hcmd => ?wait, fun hcmd => ?palette, fun hcmd => ?copy⟩ <;>
    have hidle : p.cmd ≠ .idle := by rw [hcmd]; exact Cmd.noConfusion
  case wait => exact agentTurn_wait hp hidle (by rw [hcmd]; rfl) (by rw [hcmd]; rfl)
  case palette =>
    rw [hcmd] at hlegal
    obtain ⟨hm, -, -, hpal, hi, -⟩ := hlegal
    have hstep : cmdStep p.cmd (s.withActor k) = _ :=
      (congrArg (cmdStep · _) hcmd).trans (stepUiPal_ram (s := s.withActor k) hwf hm hpal hi)
    obtain ⟨t, hturn, hsame, hread, hframe⟩ := turnStores_of_cmdStep hp hidle (by rw [hcmd]; rfl)
      (fun hmem => memRead_memWrite_word _ _ hmem) hstep
    rw [nextCmd_uiPal hi] at hframe
    exact ⟨t, hturn, hsame, hread, hframe⟩
  case copy =>
    rw [hcmd] at hlegal
    obtain ⟨hm, hn, hsrc, hdest, ho⟩ := hlegal
    have hbpp : s.cfg.bpp = 1 := by simp only [Config.bpp, hm]
    have hsize : pixelSize s.cfg = .byte := by simp only [pixelSize, hm]
    obtain ⟨v, t, hcomp, ht⟩ := turnStores_of_copy (o := o) (c := nextCmd s (.uiCopy src n dest o)) hp hidle
      (by rw [hcmd]; rfl) hwf hn hsrc hdest (by rw [hbpp, Nat.mod_one]) ho (by rw [hcmd]; rfl)
    rw [hsize, nextCmd_uiCopy ho] at ht
    obtain ⟨hturn, hsame, hread, hframe⟩ := ht
    exact ⟨v, t, hcomp, hturn, hsame, hread, hframe⟩

/-! ## The region of a `PARTIAL_UPDATE` -/

/-- A pixel of the frame has an offset in the buffer (R880, `10_state.md` R162). -/
theorem pixelOffset_lt {c : Config} {xx yy : Nat} (hx : xx < c.width) (hy : yy < c.bufRows) :
    pixelOffset c xx yy % c.bpp = 0 ∧ pixelOffset c xx yy < c.bufBytes := by
  have hbpp : 0 < c.bpp := by
    simp only [Config.bpp]
    split <;> decide
  have hcol : xx * c.bpp < c.stride := Nat.mul_lt_mul_of_pos_right hx hbpp
  have hrow : (yy + 1) * c.stride ≤ c.bufRows * c.stride := Nat.mul_le_mul_right _ hy
  rw [Nat.succ_mul, Nat.mul_comm c.bufRows, ← Config.bufBytes] at hrow
  refine ⟨?_, by rw [pixelOffset]; omega⟩
  rw [pixelOffset, Config.stride, ← Nat.mul_assoc, ← Nat.add_mul, Nat.mul_mod_left]

/-- A copy step stores the source pixel of the same place (R880). -/
theorem stepPCopy_ram {s : State} {src dest : Word} {x y w h yy xx : Nat} (hc : s.cfg.wf = true)
    (hlegal : CmdLegal s.cfg (.pCopy src dest x y w h yy xx)) :
    stepPCopy src dest x y w h yy xx s = .ok (State.setCmd { s with
      mem := memWrite s.mem (offset dest (pixelOffset s.cfg xx yy)) (pixelSize s.cfg)
        (memRead s.mem (offset src (pixelOffset s.cfg xx yy)) (pixelSize s.cfg)) }
      (afterPartial src dest x y w h yy xx)) := by
  obtain ⟨hsrc, hdest, hregion, -, hyh, -, hxw⟩ := hlegal
  obtain ⟨hwidth, hrows⟩ := (regionOk_iff ..).1 hregion
  obtain ⟨hmod, hlt⟩ := pixelOffset_lt (c := s.cfg) (xx := xx) (yy := yy) (by omega) (by omega)
  rw [sourceOk_one] at hsrc
  obtain ⟨halS, hramS⟩ := bufferPixel_ram hc hsrc hmod hlt
  obtain ⟨halD, hramD⟩ := bufferPixel_ram hc hdest hmod hlt
  simp only [stepPCopy, producerLoad_ram halS hramS, producerStore_ram _ halD hramD, thenCmd]

/-- Settles O47: the source pixel is as wide as the store. -/
theorem partialUpdateCopiesOnePixel : Obligations.PartialUpdateCopiesOnePixel := by
  intro s k p src dest x y w h yy xx hwf hlegal hp hcmd o
  have hidle : p.cmd ≠ .idle := by rw [hcmd]; exact Cmd.noConfusion
  rw [hcmd] at hlegal
  have hstep : cmdStep p.cmd (s.withActor k) = _ :=
    (congrArg (cmdStep · _) hcmd).trans (stepPCopy_ram (s := s.withActor k) hwf hlegal)
  obtain ⟨t, hturn, hsame, hread, hframe⟩ := turnStores_of_cmdStep hp hidle (by rw [hcmd]; rfl)
    (fun hmem => (memRead_memWrite _ _ _ hmem).trans (memRead_and_mask _ _ _)) hstep
  rw [pixelSize_bytes] at hsame
  exact ⟨t, hturn, hsame, hread, hframe⟩

end Sys2Proof.CommandSteps
end

section
/-! The statements of `60_exceptions.md`: in a legal state a step is refused only for a producer's own load or store
(R902), and a failed `INIT` is the end of the run (R903). Each agent's step is shown to run, one lemma for each. -/

namespace Sys2Proof.Exceptions

open Sys2Proof Sys2Proof.Machine Sys2Proof.Safety Sys2Proof.Laws Sys2Proof.CommandForms

/-- The outcome is a next state. -/
def Runs (o : Host.Outcome State Fault Refusal) : Prop := ∃ t, o = .next t

theorem runs_next (t : State) : Runs (.next t) := ⟨t, rfl⟩

theorem not_runs_refused (r : Refusal) : ¬Runs (.refused r) := fun ⟨_, h⟩ => nomatch h

theorem runs_outcomeOf_iff {x : Except Refusal State} : Runs (outcomeOf x) ↔ ∃ t, x = .ok t :=
  ⟨fun ⟨t, h⟩ => ⟨t, outcomeOf_next h⟩, fun ⟨t, h⟩ => ⟨t, congrArg outcomeOf h⟩⟩

/-! ## The fatal stop -/

/-- Settles O10: `INIT` fails by `fatalStop` after its draw, and `isStopped` reads the bit which that sets. -/
theorem fatalStopEndsTheRun : Obligations.FatalStopEndsTheRun := by
  constructor
  · intro s hc hoff hres
    have hexec := HostCommands.exec_init hc hoff
    rw [hres] at hexec
    exact ⟨fatalStop (drawn s), hexec, by simp [fatalStop, Code.mask], rfl⟩
  · exact fun s hstopped => (step_fault_iff s .fatalStop).2 hstopped

/-! ## The agents of the block -/

section
variable {s : State}

theorem tickStep_runs (h : TimingLegal s) : Runs (tickStep s) := by
  obtain ⟨-, -, htq, hword, -⟩ := h
  simp only [tickStep]
  split
  next =>
    split
    next => exact runs_next _
    next w q hq =>
      rw [hq, List.all_cons, Bool.and_eq_true] at htq
      rw [runTiming_ok htq.1]
      exact runs_next _
  next =>
    rw [runTiming_ok hword]
    exact runs_next _

/-- A channel whose step is due in a legal chain makes its transfer: its `CTRL` is the program's, and a trigger finds
transfers to make (`44_dma_chain.md` R610, R612). -/
theorem dmaTurn_runs {n : ChanId} (hc : s.cfg.wf = true) (h : ChainLegal s) (he : enabled (.dma n) s = true) :
    Runs (agentTurn (.dma n) s) := by
  obtain ⟨hb, hpace⟩ := (DmaChain.enabled_dma_iff h).1 he
  cases n with
  | a =>
    cases hm : s.cfg.mode with
    | direct =>
      obtain ⟨-, hdreq⟩ := DmaChain.program_a_port.1 hm
      rw [hdreq, DmaChain.dreqOk_pf] at hpace
      exact ⟨_, DmaChain.agentTurn_a_direct hc h hb hm hpace⟩
    | indexed =>
      obtain ⟨-, hdreq⟩ := DmaChain.program_a_port.2 hm
      rw [hdreq, DmaChain.dreqOk_pli] at hpace
      exact ⟨_, DmaChain.agentTurn_a_indexed hc h hb hm hpace⟩
  | b => exact ⟨_, DmaChain.agentTurn_b hc h hb⟩
  | c =>
    rw [DmaChain.programChannels_indexed (of_decide_eq_true (DmaChain.hasChan_of_busy h.programmed hb))] at hpace
    obtain ⟨v, q, hplo⟩ := DmaChain.dreqOk_plo.1 hpace
    exact ⟨_, DmaChain.agentTurn_c hc h hb hplo⟩
  | d =>
    rw [DmaChain.programChannels_indexed (of_decide_eq_true (DmaChain.hasChan_of_busy h.programmed hb))] at hpace
    exact ⟨_, DmaChain.agentTurn_d hc h hb (DmaChain.dreqOk_pf.1 hpace)⟩

theorem dispStep_runs (hc : s.cfg.wf = true) (h : ChainLegal s) (hrun : s.regs.run = true) :
    Runs (outcomeOf (dispStep s)) := by
  rw [runs_outcomeOf_iff, dispStep]
  split
  next => exact ⟨_, DispatcherSteps.frameTransition_of_chainLegal hc h hrun⟩
  next => exact ⟨_, rfl⟩

/-- Every agent of the block runs in a legal state. -/
theorem agentTurn_runs {a : Agent} (h : Legal s) (ha : ∀ n, a ≠ .producer n) (he : enabled a s = true) :
    Runs (agentTurn a s) := by
  obtain ⟨hc, -⟩ := h.scan
  cases a with
  | dma n => exact dmaTurn_runs hc h.chain he
  | producer n => exact absurd rfl (ha n)
  | tseq => rw [Scope.agentTurn_enabled he]; exact runs_next _
  | tgenStart => rw [Scope.agentTurn_enabled he]; exact runs_next _
  | tick => rw [Scope.agentTurn_enabled he]; exact tickStep_runs h.timing
  | plu => rw [Scope.agentTurn_enabled he]; exact runs_next _
  | disp => rw [Scope.agentTurn_enabled he]; exact dispStep_runs hc h.chain (SharedState.dispEnabled_run he)

/-! ## The host commands -/

theorem execInit_runs (hc : s.cfg.wf = true) : Runs (execInit s) := by
  cases hrun : s.regs.run with
  | true => exact ⟨_, if_pos hrun⟩
  | false => exact ⟨_, HostCommands.exec_init hc hrun⟩

theorem execSetFramebuffer_runs (base : Word) : Runs (execSetFramebuffer base s) := by
  simp only [execSetFramebuffer]
  split <;> exact runs_next _

theorem execSetPalette_runs (index colour : Word) (hc : s.cfg.wf = true) : Runs (execSetPalette index colour s) := by
  simp only [execSetPalette]
  split_ifs with hm hi
  · exact runs_next _
  · exact runs_next _
  · exact runs_outcomeOf_iff.2
      ⟨_, HostCommands.writeEntry_ram colour hc (Decidable.of_not_not hm) (by omega)⟩

theorem execSetBacklight_runs (brightness : Word) : Runs (execSetBacklight brightness s) := by
  simp only [execSetBacklight]
  split <;> exact runs_next _

theorem execUpdate_runs (src layers pal : Word) : Runs (execUpdate src layers pal s) := by
  simp only [execUpdate]
  split
  · exact runs_next _
  · split <;> exact runs_next _

theorem execPartialUpdate_runs (src layers : Word) (x y w h : BitVec 16) :
    Runs (execPartialUpdate src layers x y w h s) := by
  simp only [execPartialUpdate]
  split_ifs <;> exact runs_next _

/-- In a checked configuration every instruction has a next state: a bad argument sets a `STATUS` bit
(`60_exceptions.md` R904). -/
theorem exec_runs (i : Instr) (hc : s.cfg.wf = true) : Runs (exec i s) := by
  cases i with
  | twNone count hs vs => exact runs_next _
  | twLineReady count hs vs => exact runs_next _
  | twNextLine count hs vs => exact runs_next _
  | twFrameReady count hs vs => exact runs_next _
  | init => exact execInit_runs hc
  | teardown => exact runs_next _
  | setFramebuffer base => exact execSetFramebuffer_runs base
  | waitVsync => exact runs_next _
  | setPalette index colour => exact execSetPalette_runs index colour hc
  | setBacklight brightness => exact execSetBacklight_runs brightness
  | update src layers pal => exact execUpdate_runs src layers pal
  | partialUpdate src layers x y w h => exact execPartialUpdate_runs src layers x y w h

theorem copyThenCmd_of_ram {src dest : Word} {n o : Nat} (c : Cmd) (hc : s.cfg.wf = true) (hn : n ≠ 0)
    (hsrc : sourceOk s.cfg src n = true) (hd : s.cfg.bufferOk dest = true) (ho : o % s.cfg.bpp = 0)
    (hb : o < s.cfg.bufBytes) : ∃ t, thenCmd (copyPixel s src n dest o) c = .ok t := by
  obtain ⟨v, -, hcopy⟩ := CommandSteps.copyPixel_ram hc hn hsrc hd ho hb
  exact ⟨_, congrArg (thenCmd · c) hcopy⟩

/-- A later step of a command accesses RAM only (`46_host_commands.md` R870 to R880). -/
theorem cmdStep_of_cmdLegal {x : Cmd} (hc : s.cfg.wf = true) (h : CmdLegal s.cfg x) :
    ∃ t, cmdStep x s = .ok t := by
  cases x with
  | idle => exact ⟨_, rfl⟩
  | waitVsync => exact ⟨_, rfl⟩
  | uRead src n dest cur => exact ⟨_, stepURead_eq s src n dest cur⟩
  | uCopy src n dest cur re =>
    obtain ⟨hm, hn, hsrc, hdest, heven, hcur, hre⟩ := h
    exact copyThenCmd_of_ram _ hc hn hsrc hdest (by simpa only [Config.bpp, hm] using heven) (by omega)
  | uiWait src n pal => exact ⟨_, rfl⟩
  | uiPal src n pal dest i =>
    obtain ⟨hm, -, -, hpal, hi, -⟩ := h
    exact ⟨_, CommandSteps.stepUiPal_ram hc hm hpal hi⟩
  | uiCopy src n dest o =>
    obtain ⟨hm, hn, hsrc, hdest, ho⟩ := h
    exact copyThenCmd_of_ram _ hc hn hsrc hdest (by simp only [Config.bpp, hm, Nat.mod_one]) ho
  | pCopy src dest x y w h' yy xx => exact ⟨_, CommandSteps.stepPCopy_ram hc h⟩

/-! ## The producers -/

/-- The request is a plain access, which no command makes. -/
def IsAccess (r : Request) : Prop := (∃ a z, r = .load a z) ∨ (∃ a z v, r = .store a z v)

theorem producerLoad_refusal {a : Word} {z : Size} {e : Refusal} (h : producerLoad s a z = .error e) :
    e ∈ accessRefusals := by
  rcases producerLoad_error h with rfl | rfl | rfl <;> decide

theorem producerStore_refusal {a : Word} {z : Size} {v : Word} {e : Refusal}
    (h : producerStore s a z v = .error e) : e ∈ accessRefusals := by
  rcases producerStore_error h with rfl | rfl | rfl <;> decide

theorem issue_refused {r : Request} {p : Producer} {e : Refusal} (h : issue r p s = .refused e)
    (hc : s.cfg.wf = true) : e ∈ accessRefusals ∧ IsAccess r := by
  cases r with
  | command c =>
    simp only [issue] at h
    split at h
    next i _ => exact absurd (h ▸ exec_runs i hc) (not_runs_refused e)
    next => cases h
  | load a z =>
    simp only [issue] at h
    split at h
    next _ hload =>
      cases h
      exact ⟨producerLoad_refusal hload, .inl ⟨a, z, rfl⟩⟩
    next => cases h
  | store a z v => exact ⟨producerStore_refusal (outcomeOf_refused h), .inr ⟨a, z, v, rfl⟩⟩

theorem producerStep_refused_access {n : Nat} {e : Refusal} (hc : s.cfg.wf = true) (hps : ProducersLegal s)
    (h : producerStep n s = .refused e) : e ∈ accessRefusals ∧
      ∃ p r q, s.producers[n]? = some p ∧ p.cmd = .idle ∧ p.queue = r :: q ∧ IsAccess r := by
  rcases producerStep_refused h with ⟨p, r, q, hp, hidle, hq, hissue⟩ | ⟨p, hp, -, hcmd⟩
  · obtain ⟨he, hr⟩ := issue_refused hissue hc
    exact ⟨he, p, r, q, hp, hidle, hq, hr⟩
  · obtain ⟨t, ht⟩ := cmdStep_of_cmdLegal (s := s.withActor n) hc (ProducerState.producersLegal_getElem hps hp)
    cases hcmd.symm.trans ht

end

/-! ## The step -/

/-- Legality does not speak of the schedule. -/
theorem legal_takeTurn {s : State} (h : Legal s) : Legal (takeTurn s) :=
  ⟨h.memory, h.queues, h.timing, h.scan, h.pump, h.backlight, h.engines,
    ⟨h.chain.programmed, h.chain.runs, h.chain.addresses⟩, h.producers⟩

/-- Settles O57: every agent of the block and every command runs, so the step was an idle producer's access. -/
theorem onlyBadAccessesAreRefused : Obligations.OnlyBadAccessesAreRefused := by
  intro s e hlegal hstep
  obtain ⟨-, henabled, hrun⟩ := step_refused hstep
  have hturn := legal_takeTurn hlegal
  rw [← enabled_takeTurn] at henabled
  by_cases hchosen : ∃ n, chosen s = .producer n
  case neg =>
    have hblock := agentTurn_runs hturn (not_exists.1 hchosen) henabled
    rw [Scope.agentTurn_enabled henabled, hrun] at hblock
    exact absurd hblock (not_runs_refused e)
  case pos =>
    obtain ⟨n, hn⟩ := hchosen
    obtain ⟨hc, -⟩ := hlegal.scan
    rw [hn] at hrun
    obtain ⟨he, p, r, q, hp, hidle, hq, haccess⟩ :=
      producerStep_refused_access (s := takeTurn s) hc hturn.producers hrun
    refine ⟨he, n, p, q, hn, hp, hidle, ?_⟩
    rcases haccess with ⟨a, z, rfl⟩ | ⟨a, z, v, rfl⟩
    · exact .inl ⟨a, z, hq⟩
    · exact .inr ⟨a, z, v, hq⟩

end Sys2Proof.Exceptions
end

section
/-! The statement of `70_reset_and_hazards.md` on what `construct` leaves (R1002): every engine is disabled and every
request queue is empty. -/

namespace Sys2Proof.ResetState

open Sys2Proof Sys2Proof.Machine Sys2Proof.Laws

theorem agentTurn_of_not_enabled {a : Agent} {s : State} (h : enabled a s = false) : agentTurn a s = .next s :=
  if_neg (Bool.eq_false_iff.1 h)

/-- A channel at its reset values has no run in progress (`44_dma_chain.md` R611). -/
theorem dmaEnabled_of_zero {n : ChanId} {s : State} (h : s.chan n = .zero) : dmaEnabled n s = false := by
  simp [dmaEnabled, dmaRunning, h, Channel.zero]

theorem pluEnabled_of_disabled {s : State} (h : s.plu.en = false) : pluEnabled s = false := by
  simp [pluEnabled, pluLoadEnabled, pluLookupEnabled, h]

/-- An idle producer that is asked for nothing has no step to take (`46_host_commands.md` R800). -/
theorem producerEnabled_of_zero {n : Nat} {s : State} (h : ∀ p ∈ s.producers, p = .zero) :
    producerEnabled n s = false := by
  simp only [producerEnabled]
  split
  next => rfl
  next p hp =>
    rw [h p (List.mem_of_getElem? hp)]
    rfl

theorem not_enabled_ofConfig (c : Config) (a : Agent) : enabled a (State.ofConfig c) = false := by
  cases a with
  | tseq => rfl
  | tgenStart => rfl
  | tick => rfl
  | plu => exact pluEnabled_of_disabled rfl
  | dma n => exact dmaEnabled_of_zero (StateRules.chan_ofConfig c n)
  | disp => rfl
  | producer n => exact producerEnabled_of_zero fun _ hp => List.eq_of_mem_replicate hp

/-- Settles O2: no agent is enabled after `construct`, and the turn of such an agent changes nothing. -/
theorem nothingMovesAfterConstruct : Obligations.NothingMovesAfterConstruct :=
  fun c a => ⟨not_enabled_ofConfig c a, agentTurn_of_not_enabled (not_enabled_ofConfig c a)⟩

end Sys2Proof.ResetState
end
